-- ==== Sys2Proof/Word.lean ====
section
/-! DEFINITION. The bit vectors of the engine: 00_scope rules R9 and R12. Every value is unsigned and bit 0 is the least
significant bit, which is `BitVec`'s own numbering (`v[hi:lo]` of rule R9 is `v.extractLsb hi lo`, `a || b` is `a ++ b`). -/

namespace Sys2Proof

/-- `Block` (rule R12): plaintext, ciphertext and cipher state, 64 bits. -/
abbrev Block := BitVec 64

/-- `RoundKey` (rule R12), 64 bits. -/
abbrev RoundKey := BitVec 64

/-- `Key80` (rule R12). -/
abbrev Key80 := BitVec 80

/-- `Key128` (rule R12). -/
abbrev Key128 := BitVec 128

/-- `Nibble` (rule R12): the S-box's input and output, 4 bits. -/
abbrev Nibble := BitVec 4

/-- A bit position of a Block: an entry of the Permutation Table (rule R27), 6 bits. -/
abbrev BitPos := BitVec 6

/-- One byte of an operand at the host's boundary (rule R34). -/
abbrev Byte := BitVec 8

/-- The command word `CW` (rule R47), 16 bits. -/
abbrev CommandWord := BitVec 16

/-- The value of the 5-bit round counter of the key schedule (rule R65). -/
abbrev Counter := BitVec 5

end Sys2Proof
end

