-- ==== Sys2Proof/Config.lean ====
section
/-! DEFINITION. The fixed parameters of 00_scope rule R7: "None of these is configurable; a model should make them constants."
The widths of rule R7 are the widths of types: `BLOCK_W` of `Block`, `KEY_W` of `Key80` and `Key128`, `SBOX_W` of `Nibble`, `CTR_W` of
`Counter`, `CW_W` of `CommandWord`, `KEYIN_W` of `Request.keyIn`, `STATUS_W` of `Status.code`; `N_NIBBLES` and `PERM_N` are the bounds of
`mapNibbles` and `moveBits` and the length of `PERM`; `N_RK_USED` is `nRounds + 1`.
The open parameters of rule R8 (LAT_KEYGEN, LAT_ENC, LAT_DEC, LAT_RELEASE, N_ENGINES) are ignored, as rule R8 allows: no rule
depends on their value (notes/assumptions 9 and 10). The spec leaves no value of any result open, so there is no free value. -/

namespace Sys2Proof.Config

/-- `N_ROUNDS`: full rounds per encryption. -/
def nRounds : Nat := 31

/-- `N_RK`: round keys generated and stored per schedule, indices 0 to 32. -/
abbrev nRk : Nat := 33

/-- `ROT`: left-rotation amount of the key register per update, both key widths. -/
def rot : Nat := 61

/-- `CTR_LSB_80`: the lowest key-register bit the counter is XORed into, 80-bit keys. -/
def ctrLsb80 : Nat := 15

/-- `CTR_LSB_128`: the same for 128-bit keys. The spec marks the value "from general knowledge, not in source" (G4; notes/assumptions 8). -/
def ctrLsb128 : Nat := 62

end Sys2Proof.Config

namespace Sys2Proof

/-- `Schedule` (rule R12): a sequence of 33 round keys, indexed 0 to 32. -/
abbrev Schedule := Vector RoundKey Config.nRk

end Sys2Proof
end

