-- ==== Sys2Proof/Syntax.lean ====
section
/-! DEFINITION. The request record (30_encoding rule R47) and the commands it stands for: one constructor per row of
spec/opcode_table.json, with the operands the opcode map of rule R49 says the command reads. -/

namespace Sys2Proof

/-- A request (rule R47): the record of command word, key operand and data operand. An ignored operand "may carry any value, or
none" (rule R51); here it always carries one (DESIGN CHOICE, safe: notes/assumptions 11). -/
structure Request where
  /-- `CW`: `CW[15:8]` is `KW`, `CW[7:0]` is `OP` (rule R48). -/
  cw : CommandWord
  /-- `KEY_IN`, 128 bits (20_memory rule R36). -/
  keyIn : Key128
  /-- `DATA_IN`, 64 bits (20_memory rule R35). -/
  dataIn : Block
  deriving DecidableEq, Repr

/-- A decoded command with the operands it reads (rules R49 and R53). What a command ignores (rules R50 and R51) is no part of
its syntax (DESIGN CHOICE, safe: notes/assumptions 12). -/
inductive Instr where
  /-- KEYGEN, `OP = 0x01` (40_key_schedule rule R72): `KW` and `KEY_IN`. Every `KW` decodes; 254 of the 256 fault when executed. -/
  | keygen (kw : BitVec 8) (keyIn : Key128)
  /-- ENC, `OP = 0x02` (42_block_driver rule R92): `DATA_IN`, the plaintext. -/
  | enc (dataIn : Block)
  /-- DEC, `OP = 0x03` (42_block_driver rule R95): `DATA_IN`, the ciphertext. -/
  | dec (dataIn : Block)
  /-- RELEASE, `OP = 0x04` (40_key_schedule rule R75): no operand. -/
  | release
  deriving DecidableEq, Repr

end Sys2Proof
end

