-- ==== Sys2Proof/Machine/State.lean ====
section
/-! DEFINITION. The state of the engine as plain data (10_state rules R13 to R21 and R25, 30_encoding rules R47, R56 and R57),
and the state right after reset. -/

namespace Sys2Proof.Machine

/-- What `KWSEL` encodes (rule R15). -/
inductive KeyWidth where
  /-- `KWSEL = 0`. -/
  | w80
  /-- `KWSEL = 1`. -/
  | w128
  deriving DecidableEq, Repr

/-- The state that holds values exactly while `VALID = 1` (rule R13): LP's Cipher Engine instance (rule R14). -/
structure EngineInstance where
  /-- `KWSEL` (rule R15). -/
  kwsel : KeyWidth
  /-- `RK[0..32]` (rule R16). -/
  rk : Schedule
  deriving DecidableEq, Repr

/-- The working registers of rule R21, not architectural. Each holds no value at every command boundary (rule R21: "each of
them returns to `none`"); the Option is the spec's own `none` (that they stand in State: notes/assumptions 15). -/
structure Working where
  /-- `KR`, 128 bits, of which an 80-bit key uses `KR[79:0]`. -/
  kr : Option (BitVec 128)
  /-- `ST`, the cipher state. -/
  st : Option Block
  /-- `RI`, the loop index. -/
  ri : Option (BitVec 6)
  deriving DecidableEq, Repr

/-- The working registers between commands (rule R21). -/
def Working.none : Working := ⟨Option.none, Option.none, Option.none⟩

/-- The engine's three faults, and no others (60_exceptions rule R99). A fault ends the COMMAND with a response; it does not stop
the machine (rules R6 and R105). -/
inductive CommandFault where
  /-- KEYGEN with `KW` neither 80 nor 128 (rule R100). -/
  | invalidKeyWidth
  /-- ENC or DEC while `VALID = 0` (rule R102). -/
  | noSchedule
  /-- `OP` not in `0x01`..`0x04` (rule R101). -/
  | illegalCommand
  deriving DecidableEq, Repr

/-- `STATUS`: the four values ever produced (30_encoding rule R57, U7: "a model's status type has four values"). Their codes are
`Status.code` (Machine/Flags.lean). -/
inductive Status where
  /-- `0x00`: the command completed. -/
  | ok
  /-- The command faulted. -/
  | fault (f : CommandFault)
  deriving DecidableEq, Repr

/-- A response (30_encoding rule R56). `dataOut` is `none` where the response "has no value" (U2: an option type). -/
structure Response where
  status : Status
  dataOut : Option Block
  deriving DecidableEq, Repr

/-- What can happen to the engine from outside (00_scope rule R5, 70_reset_and_hazards rules R113 and R114). -/
inductive HostEvent where
  /-- The host presents a request and the engine takes it (30_encoding rule R47). -/
  | request (r : Request)
  /-- Reset while no command executes (rule R113). -/
  | reset
  /-- Reset arriving while the command of request `r` executes (rule R114): the request is not executed and gets no response
  (DEDUCED, safe: notes/assumptions 6). -/
  | resetDuring (r : Request)
  deriving DecidableEq, Repr

/-- The machine. No field is architectural but `engine` (rule R13). -/
structure State where
  /-- `VALID`, `KWSEL` and `RK[0..32]`: `none` is `VALID = 0`, where `KWSEL` and `RK` hold no value (rules R13, R25; DESIGN
  CHOICE, safe: notes/assumptions 3). Read through `State.valid`, `State.kwsel` and `State.rk`. -/
  engine : Option EngineInstance
  /-- `KR`, `ST` and `RI` (rule R21). -/
  work : Working
  /-- The response ports `STATUS` and `DATA_OUT`: `none` after reset "until the first response" (rule R25), then the last response
  (DESIGN CHOICE, unsafe: notes/assumptions 16). -/
  response : Option Response
  /-- The single command stream (20_memory rule R40), next event first: what the outside will do. The model's own field
  (notes/assumptions 1). -/
  stream : List HostEvent
  /-- The responses returned so far, oldest first: the observable result of a run (70_reset_and_hazards rule R124). The model's
  own field (notes/assumptions 2). -/
  returned : List Response
  deriving DecidableEq, Repr

/-- Why the machine stops: never. Nobody raises one. Every fault of the spec is the outcome of a command that ends with a
response, after which the engine takes the next request (rules R6, R105, R107); no command hangs (rule R6). Safe and exact
(notes/assumptions 4). -/
inductive Fault where
  deriving DecidableEq, Repr

/-- Why an instruction has no meaning. -/
inductive Refusal where
  /-- Raised by an arm of `exec` whose instruction is not modelled yet; no arm raises it in this model. Safe: nothing is claimed of
  an instruction that is refused. -/
  | notModelled (mnemonic : String)
  deriving DecidableEq, Repr

/-- The machine right after reset (10_state rule R25, 70_reset_and_hazards rule R115): `VALID = 0`; `KWSEL`, `RK[0..32]`, `KR`,
`ST` and `RI` hold no value, which is the spec's own reset value; no response is pending. Nothing is in the stream and nothing
has been returned (the model's own fields; DESIGN CHOICE: notes/assumptions 1 and 2). -/
def State.reset : State where
  engine := none
  work := .none
  response := none
  stream := []
  returned := []

end Sys2Proof.Machine
end

