-- ==== Sys2Proof/Machine/Ops.lean ====
section
/-! DEFINITION. The named operations over the state: the views of the registers, answering a request, taking a fault, installing
and discarding the schedule, reset, and taking the next event of the command stream. The only places that read or write a field. -/

namespace Sys2Proof.Machine

/-- `VALID` (10_state rule R14): 1 when a Cipher Engine instance exists. -/
def State.valid (s : State) : Bool := s.engine.isSome

/-- `KWSEL` (rule R15): `none` while `VALID = 0`. -/
def State.kwsel (s : State) : Option KeyWidth := s.engine.map (·.kwsel)

/-- `RK[i]` (rule R16), read as one whole 64-bit value (20_memory rule R29): `none` while `VALID = 0`. -/
def State.rk (s : State) (i : Fin 33) : Option RoundKey := s.engine.map (·.rk[i])

/-- The bit `KWSEL` holds for a key width (rule R15): 0 for 80 bits, 1 for 128 bits. -/
def KeyWidth.bit : KeyWidth → BitVec 1
  | .w80 => 0#1
  | .w128 => 1#1

/-- End of a command (30_encoding rule R56, 10_state rule R21): exactly one response is produced, and the working registers
return to `none`. -/
def State.respond (s : State) (r : Response) : State :=
  { s with work := .none, response := some r, returned := s.returned ++ [r] }

/-- Outcome `ok` of a command (00_scope rule R6): `STATUS = 0x00`, with `DATA_OUT` where the command has a result. -/
def State.complete (s : State) (dataOut : Option Block) : State :=
  s.respond { status := .ok, dataOut := dataOut }

/-- Taking a fault (`raise`, 00_scope rule R11; 60_exceptions rules R103, R105 and R106): the command ends, the response carries
the code and no data, and no architectural state changes. There is no handler, so no return from one (rule R107). -/
def State.raise (s : State) (f : CommandFault) : State :=
  s.respond { status := .fault f, dataOut := none }

/-- `RK[0..32] <- sched`, `KWSEL <- sel`, `VALID <- 1`, all at once (40_key_schedule rule R72, 10_state rule R18). -/
def State.install (s : State) (sel : KeyWidth) (sched : Schedule) : State :=
  { s with engine := some { kwsel := sel, rk := sched } }

/-- `VALID <- 0`, `KWSEL <- none`, `RK[0..32] <- none` (40_key_schedule rule R75). -/
def State.discard (s : State) : State :=
  { s with engine := none }

/-- The reset event (70_reset_and_hazards rules R113 to R115): every register of the engine takes its reset value and no response
is produced, whatever the engine was doing. What the outside still has to present and what it has already received are not the
engine's and stay (notes/assumptions 1, 2 and 6). -/
def State.applyReset (s : State) : State :=
  { State.reset with stream := s.stream, returned := s.returned }

/-- The next event of the command stream and the state once it is taken (20_memory rule R40); `none` while the engine is idle. -/
def State.takeEvent (s : State) : Option (HostEvent × State) :=
  match s.stream with
  | [] => none
  | e :: rest => some (e, { s with stream := rest })

end Sys2Proof.Machine
end

