-- ==== Sys2Proof/Machine/RoundFunction.lean ====
section
/-! DEFINITION. The round function: XOR mixer, S-box substitution unit and bit-permutation unit with their constant tables and
inverses (41_round_function rules R77 to R90). None of these is a command; every function is total (rule R90). -/

namespace Sys2Proof.Machine

/-- Key mixing, the unit that also whitens (rule R77). -/
def addRoundKey (s : Block) (k : RoundKey) : Block := s ^^^ k

/-- `SBOX` (rule R78). The spec marks the entries "from general knowledge, not in source" (G1; UNVERIFIED but for the source's one
vector, unsafe: notes/assumptions 7). -/
def SBOX : Vector Nibble 16 :=
  #v[0xC, 0x5, 0x6, 0xB, 0x9, 0x0, 0xA, 0xD, 0x3, 0xE, 0xF, 0x8, 0x4, 0x7, 0x1, 0x2]

/-- `SBOX_INV` (rule R80), derived from `SBOX` by inversion. -/
def SBOX_INV : Vector Nibble 16 :=
  #v[0x5, 0xE, 0xF, 0x8, 0xC, 0x1, 0x2, 0xD, 0xB, 0x4, 0x6, 0x3, 0x0, 0x7, 0x9, 0xA]

/-- `PERM` (rule R83), row by row: `PERM[i]` is the destination of source bit `i`. The spec marks the entries "from general
knowledge, not in source" (G2; UNVERIFIED but for the source's one vector, unsafe: notes/assumptions 7). -/
def PERM : Vector BitPos 64 :=
  (#v[0, 16, 32, 48, 1, 17, 33, 49, 2, 18, 34, 50, 3, 19, 35, 51] : Vector BitPos 16) ++
  (#v[4, 20, 36, 52, 5, 21, 37, 53, 6, 22, 38, 54, 7, 23, 39, 55] : Vector BitPos 16) ++
  (#v[8, 24, 40, 56, 9, 25, 41, 57, 10, 26, 42, 58, 11, 27, 43, 59] : Vector BitPos 16) ++
  (#v[12, 28, 44, 60, 13, 29, 45, 61, 14, 30, 46, 62, 15, 31, 47, 63] : Vector BitPos 16)

/-- `PERM_INV` (rule R85), derived from `PERM` by inversion. -/
def PERM_INV : Vector BitPos 64 :=
  (#v[0, 4, 8, 12, 16, 20, 24, 28, 32, 36, 40, 44, 48, 52, 56, 60] : Vector BitPos 16) ++
  (#v[1, 5, 9, 13, 17, 21, 25, 29, 33, 37, 41, 45, 49, 53, 57, 61] : Vector BitPos 16) ++
  (#v[2, 6, 10, 14, 18, 22, 26, 30, 34, 38, 42, 46, 50, 54, 58, 62] : Vector BitPos 16) ++
  (#v[3, 7, 11, 15, 19, 23, 27, 31, 35, 39, 43, 47, 51, 55, 59, 63] : Vector BitPos 16)

/-- `SBOX[n]` (20_memory rule R28): a 4-bit index is always in range (rule R27). -/
def sbox (n : Nibble) : Nibble := SBOX[n.toNat]'n.isLt

/-- `SBOX_INV[n]`. -/
def sboxInv (n : Nibble) : Nibble := SBOX_INV[n.toNat]'n.isLt

/-- `PERM[i]` (20_memory rule R28): a 6-bit index is always in range (rule R27). -/
def perm (i : BitPos) : BitPos := PERM[i.toNat]'i.isLt

/-- `PERM_INV[j]`. -/
def permInv (j : BitPos) : BitPos := PERM_INV[j.toNat]'j.isLt

/-! The table checks. "A malformed table is a construction-time defect": the properties of rules R82 and R87 are checked once about
the constants, and no command checks them (rule R90). -/

/-- Rule R82, of an S-box table and its inverse: every value occurs exactly once in the table, the two tables undo each other both
ways (90_conflicts C10: the inverse composed with the table), and the table has no fixed point. -/
abbrev SboxTablesValid (table inverse : Vector Nibble 16) : Prop :=
  ∀ n : Nibble, table.toList.count n = 1 ∧ inverse[(table[n.toNat]'n.isLt).toNat]'(BitVec.isLt _) = n ∧
    table[(inverse[n.toNat]'n.isLt).toNat]'(BitVec.isLt _) = n ∧ table[n.toNat]'n.isLt ≠ n

/-- Rule R87, of a permutation table and its inverse: every value occurs exactly once in the table, and the two tables undo each
other both ways (rule R85). -/
abbrev PermTablesValid (table inverse : Vector BitPos 64) : Prop :=
  ∀ i : BitPos, table.toList.count i = 1 ∧ inverse[(table[i.toNat]'i.isLt).toNat]'(BitVec.isLt _) = i ∧
    table[(inverse[i.toNat]'i.isLt).toNat]'(BitVec.isLt _) = i

/-- Rule R87: as a movement of positions, three times `move` is the identity, twice is `back`, and it is no involution. -/
abbrev MovesInOrderThree (move back : BitPos → BitPos) : Prop :=
  (∀ i, move (move (move i)) = i ∧ back i = move (move i)) ∧ ∃ i, move (move i) ≠ i

/-- The constants of rules R78 and R80 have the properties of rule R82. -/
theorem sbox_tables_valid : SboxTablesValid SBOX SBOX_INV := by decide +kernel

/-- Rule R82: the inverse table composed with itself is not the identity. -/
theorem sboxInv_not_involution : sboxInv (sboxInv 0) = 1 := by decide

/-- The constants of rules R83 and R85 have the properties of rule R87. -/
theorem perm_tables_valid : PermTablesValid PERM PERM_INV := by decide +kernel

/-- The permutation table has order three on positions, for instance 1 to 16 to 4 to 1 (rule R87). -/
theorem perm_order_three : MovesInOrderThree perm permInv ∧ perm 1 = 16 ∧ perm 16 = 4 ∧ perm 4 = 1 := by decide +kernel

/-- `s[4j+3 : 4j]`: nibble `j` of a Block, nibble 0 the least significant hex digit (rule R79). -/
def nibble (s : Block) (j : Nat) : Nibble := s.extractLsb' (4 * j) 4

/-- `out[4j+3 : 4j] = n`. -/
def setNibble (out : Block) (j : Nat) (n : Nibble) : Block :=
  (out &&& ~~~(0xF#64 <<< (4 * j))) ||| (n.setWidth 64 <<< (4 * j))

/-- The loop of rules R79 and R81: nibble `j` of the result is `f` of nibble `j` of `s`, for j = 0 to 15. -/
def mapNibbles (f : Nibble → Nibble) (s : Block) : Block :=
  (List.range 16).foldl (fun out j => setNibble out j (f (nibble s j))) 0#64

/-- The substitution layer (rule R79). -/
def sboxLayer (s : Block) : Block := mapNibbles sbox s

/-- The inverse substitution layer (rule R81). -/
def invSboxLayer (s : Block) : Block := mapNibbles sboxInv s

/-- `out[p] = b`. -/
def setBit (out : Block) (p : BitPos) (b : Bool) : Block :=
  (out &&& ~~~(1#64 <<< p.toNat)) ||| ((BitVec.ofBool b).setWidth 64 <<< p.toNat)

/-- The loop of rules R84 and R86: bit `i` of `s` moves to position `dest i`, for i = 0 to 63. -/
def moveBits (dest : BitPos → BitPos) (s : Block) : Block :=
  (List.range 64).foldl (fun out i => setBit out (dest (BitVec.ofNat 6 i)) (s.getLsbD i)) 0#64

/-- The permutation layer (rule R84): the table is indexed by the source and yields the destination. -/
def pLayer (s : Block) : Block := moveBits perm s

/-- The inverse permutation layer (rule R86). -/
def invPLayer (s : Block) : Block := moveBits permInv s

/-- The round: key mixing, then substitution, then permutation (rule R88). -/
def applyRound (s : Block) (k : RoundKey) : Block := pLayer (sboxLayer (addRoundKey s k))

/-- The inverse round: inverse permutation, then inverse substitution, then key mixing (rule R89). -/
def invRound (s : Block) (k : RoundKey) : Block := addRoundKey (invSboxLayer (invPLayer s)) k

end Sys2Proof.Machine
end

