-- ==== Sys2Proof/Machine/BlockDriver.lean ====
section
/-! DEFINITION. The block cipher driver and the commands ENC and DEC (42_block_driver rules R91 to R98). -/

namespace Sys2Proof.Machine

/-- `sched[0]`, ..., `sched[30]`, in order: the round keys consumed by the 31 full rounds (rule R91). -/
def roundKeys (sched : Schedule) : List RoundKey := sched.toList.take Config.nRounds

/-- `sched[31]`: the whitening key (rule R91). -/
def whiteningKey (sched : Schedule) : RoundKey := sched[31]

/-- `encrypt(p, sched)` (rule R91): 31 rounds, then whitening; `sched[32]` is not used. -/
def encrypt (p : Block) (sched : Schedule) : Block :=
  addRoundKey ((roundKeys sched).foldl applyRound p) (whiteningKey sched)

/-- `decrypt(c, sched)` (rule R94): the whitening undone, then 31 inverse rounds from last to first. -/
def decrypt (c : Block) (sched : Schedule) : Block :=
  (roundKeys sched).reverse.foldl invRound (addRoundKey c (whiteningKey sched))

/-- ENC (rule R92): NoSchedule if `VALID` is not 1, else `DATA_OUT` is the ciphertext; writes no architectural state. -/
def execEnc (dataIn : Block) (s : State) : Host.Outcome State Fault Refusal :=
  match s.engine with
  | none => .next (s.raise .noSchedule)
  | some e => .next (s.complete (some (encrypt dataIn e.rk)))

/-- DEC (rule R95): NoSchedule if `VALID` is not 1, else `DATA_OUT` is the plaintext; writes no architectural state. -/
def execDec (dataIn : Block) (s : State) : Host.Outcome State Fault Refusal :=
  match s.engine with
  | none => .next (s.raise .noSchedule)
  | some e => .next (s.complete (some (decrypt dataIn e.rk)))

end Sys2Proof.Machine
end

