-- ==== Sys2Proof/WellFormed.lean ====
section
/-! DEFINITION. Which commands the assembler of 30_encoding rule R59 can write. The engine does not need the check: it executes
every decoded command, and the port takes any `KEY_IN` (20_memory rule R36). It tells a command a program line can stand for
from one only a raw request record can (95_test_vectors P3, line 6: "cannot be written in the assembler of rule R59"). -/

namespace Sys2Proof

/-- The key operand a KEYGEN line stands for is "the key, right-aligned, upper bits zero" (rule R59): it fits in `kw` bits.
For `kw` = 80 and 128 these are the 20 and 32 hex digits rule R59 gives; for the other widths the model reads the rule the same
way, as 95_test_vectors P2 does for 64 and 96 (DEDUCED, safe: notes/assumptions 13). -/
def keyFitsWidth (kw : BitVec 8) (keyIn : Key128) : Bool :=
  decide (keyIn.toNat < 2 ^ kw.toNat)

/-- The command can be written in the assembler syntax of rule R59. -/
def Instr.wellFormed : Instr → Bool
  | .keygen kw keyIn => keyFitsWidth kw keyIn
  | .enc _ => true
  | .dec _ => true
  | .release => true

end Sys2Proof
end

