-- ==== Sys2Proof/Decode.lean ====
section
/-! DEFINITION. Decoding and encoding of requests: 30_encoding rules R48 to R54, R58 and R59. -/

namespace Sys2Proof

/-- `OP = CW[7:0]` (rule R48). -/
def opField (cw : CommandWord) : BitVec 8 := cw.extractLsb' 0 8

/-- `KW = CW[15:8]` (rule R48): not scaled, shifted or sign-extended (rule R50). -/
def kwField (cw : CommandWord) : BitVec 8 := cw.extractLsb' 8 8

/-- Why a request decodes to no command. -/
inductive DecodeError where
  /-- `OP` is `0x00` or in `0x05`..`0xFF` (rule R53): the engine answers IllegalCommand. Carries the command word, as rule R58's
  `raise IllegalCommand(CW)` does; it is not echoed to the host (60_exceptions rule R101). -/
  | illegalCommand (cw : CommandWord)
  deriving DecidableEq, Repr

/-- The decode procedure (rule R58, steps 1 and 2) with the opcode map of rule R49; total on every request (rule R53). -/
def decode (r : Request) : Except DecodeError Instr :=
  if opField r.cw = 0x01#8 then .ok (.keygen (kwField r.cw) r.keyIn)
  else if opField r.cw = 0x02#8 then .ok (.enc r.dataIn)
  else if opField r.cw = 0x03#8 then .ok (.dec r.dataIn)
  else if opField r.cw = 0x04#8 then .ok .release
  else .error (.illegalCommand r.cw)

/-- The command word with the given fields (rule R48). -/
def mkCw (kw op : BitVec 8) : CommandWord := kw ++ op

/-- The request an assembler line stands for (rule R59): `CW = (kw << 8) | OP` for KEYGEN and `CW = OP` for the others, the
operands in their ports, unused operands zero. -/
def encode : Instr → Request
  | .keygen kw keyIn => { cw := mkCw kw 0x01#8, keyIn := keyIn, dataIn := 0#64 }
  | .enc dataIn => { cw := mkCw 0x00#8 0x02#8, keyIn := 0#128, dataIn := dataIn }
  | .dec dataIn => { cw := mkCw 0x00#8 0x03#8, keyIn := 0#128, dataIn := dataIn }
  | .release => { cw := mkCw 0x00#8 0x04#8, keyIn := 0#128, dataIn := 0#64 }

/-- The request record as one number: `CW` in bits 15..0 as spec/opcode_table.json numbers them, then `KEY_IN` in bits 143..16
and `DATA_IN` in bits 207..144, the record's own order (rule R47). The spec gives the record no such numbering; it serves the
host's questions about table words only (DESIGN CHOICE, safe: notes/assumptions 14). -/
def Request.ofBits (w : Nat) : Request where
  cw := BitVec.ofNat 16 w
  keyIn := BitVec.ofNat 128 (w >>> 16)
  dataIn := BitVec.ofNat 64 (w >>> 144)

/-- The request whose lowest `nbits` bits are those of `w` and whose other bits are zero. -/
def Request.ofTableWord (nbits w : Nat) : Request := Request.ofBits (w % 2 ^ nbits)

/-- The command the decoder reads from a table word, `none` where it refuses. -/
def decodeTableWord (nbits w : Nat) : Option Instr := (decode (Request.ofTableWord nbits w)).toOption

end Sys2Proof
end

