-- ==== Sys2Proof/Machine/Operands.lean ====
section
/-! DEFINITION. The operand ports: where a key sits in `KEY_IN`, and the big-endian byte order of Blocks and Keys at the host's
boundary (20_memory rules R34 to R36). Bytes appear only here (00_scope rule R12, I6). -/

namespace Sys2Proof.Machine

/-- The 80-bit key in the key port: `KEY_IN[79:0]`, with `KEY_IN[127:80]` ignored (rule R36). -/
def keyIn80 (keyIn : Key128) : Key80 := keyIn.extractLsb' 0 80

/-- The 128-bit key in the key port: `KEY_IN[127:0]` (rule R36). -/
def keyIn128 (keyIn : Key128) : Key128 := keyIn

/-- An 80-bit key placed in the key port as the assembler does: right-aligned, upper bits zero (rules R36 and R59). -/
def placeKey80 (k : Key80) : Key128 := k.setWidth 128

/-- Byte `j` of a value presented as `n` bytes, the first byte holding the most significant eight bits (rule R34). -/
def byteOf {w : Nat} (n : Nat) (v : BitVec w) (j : Nat) : Byte := v.extractLsb' (8 * (n - 1 - j)) 8

/-- `B0, ..., B7` of a Block (rule R35). -/
def blockBytes (v : Block) : Vector Byte 8 := Vector.ofFn fun j => byteOf 8 v j

/-- `K0, ..., K9` of an 80-bit key (rule R36). -/
def key80Bytes (k : Key80) : Vector Byte 10 := Vector.ofFn fun j => byteOf 10 k j

/-- `K0, ..., K15` of a 128-bit key (rule R36). -/
def key128Bytes (k : Key128) : Vector Byte 16 := Vector.ofFn fun j => byteOf 16 k j

/-- The `w`-bit value of a sequence of bytes, most significant byte first (rule R34). -/
def ofBytes (w : Nat) (bs : List Byte) : BitVec w :=
  bs.foldl (fun v b => (v <<< 8) ||| b.setWidth w) 0#w

/-- The Block presented as the bytes `B0, ..., B7` (rule R35). -/
def blockOfBytes (bs : Vector Byte 8) : Block := ofBytes 64 bs.toList

/-- The 80-bit key presented as the bytes `K0, ..., K9` (rule R36). -/
def key80OfBytes (bs : Vector Byte 10) : Key80 := ofBytes 80 bs.toList

/-- The 128-bit key presented as the bytes `K0, ..., K15` (rule R36). -/
def key128OfBytes (bs : Vector Byte 16) : Key128 := ofBytes 128 bs.toList

/-- LP's `new_engine(key_bytes, 80)` as a request (30_encoding rule R61): KEYGEN with `KW = 80` and the key big-endian. -/
def newEngine80 (bs : Vector Byte 10) : Request := encode (.keygen 80#8 (placeKey80 (key80OfBytes bs)))

/-- LP's `new_engine(key_bytes, 128)` as a request (rule R61). -/
def newEngine128 (bs : Vector Byte 16) : Request := encode (.keygen 128#8 (key128OfBytes bs))

/-- LP's `encrypt_block` as a request (rule R61). -/
def encryptBlock (bs : Vector Byte 8) : Request := encode (.enc (blockOfBytes bs))

/-- LP's `decrypt_block` as a request (rule R61). -/
def decryptBlock (bs : Vector Byte 8) : Request := encode (.dec (blockOfBytes bs))

end Sys2Proof.Machine
end

