-- ==== Sys2Proof/Machine/KeySchedule.lean ====
section
/-! DEFINITION. The key schedule generator and the commands KEYGEN and RELEASE (40_key_schedule rules R62 to R76). -/

namespace Sys2Proof.Machine

/-- `rotl_W(v, n) = v[W-1-n:0] || v[W-1:W-n]`, with `n` taken modulo the width (00_scope rule R10). -/
def rotl {w : Nat} (v : BitVec w) (n : Nat) : BitVec w :=
  (v <<< (n % w)) ||| (v >>> (w - n % w))

/-- `ctr(i) = (i + 1) mod 32`, a 5-bit vector (rule R65); 0 for the last update, i = 31 (rule R67). -/
def ctr (i : Nat) : Counter := BitVec.ofNat 5 (i + 1)

/-- `rk_extract_80(KR) = KR[79:16]` (rule R64). -/
def rkExtract80 (kr : BitVec 80) : RoundKey := kr.extractLsb' 16 64

/-- `rk_extract_128(KR) = KR[127:64]` (rule R64). -/
def rkExtract128 (kr : BitVec 128) : RoundKey := kr.extractLsb' 64 64

/-- The S-box on the top nibble: `SBOX[t[79:76]] || t[75:0]` (rule R66). -/
def sboxTop80 (t : BitVec 80) : BitVec 80 := sbox (t.extractLsb' 76 4) ++ t.extractLsb' 0 76

/-- The S-box on the top two nibbles: `SBOX[t[127:124]] || SBOX[t[123:120]] || t[119:0]` (rule R69; which nibbles: G3,
notes/assumptions 8). -/
def sboxTop128 (t : BitVec 128) : BitVec 128 :=
  sbox (t.extractLsb' 124 4) ++ sbox (t.extractLsb' 120 4) ++ t.extractLsb' 0 120

/-- `ks_update_80(KR, c)` (rule R66): rotate, S-box, counter, in this order. -/
def ksUpdate80 (kr : BitVec 80) (c : Counter) : BitVec 80 :=
  sboxTop80 (rotl kr Config.rot) ^^^ (c.setWidth 80 <<< Config.ctrLsb80)

/-- `ks_update_128(KR, c)` (rule R69; the counter's place: G4, notes/assumptions 8). -/
def ksUpdate128 (kr : BitVec 128) (c : Counter) : BitVec 128 :=
  sboxTop128 (rotl kr Config.rot) ^^^ (c.setWidth 128 <<< Config.ctrLsb128)

/-- The key register `KR` from which round key `i` is extracted (rules R63 and R68): the key itself, then `i` updates. -/
def keyRegister80 (key : Key80) : Nat → BitVec 80
  | 0 => key
  | i + 1 => ksUpdate80 (keyRegister80 key i) (ctr i)

/-- The same for a 128-bit key (rules R63 and R71). -/
def keyRegister128 (key : Key128) : Nat → BitVec 128
  | 0 => key
  | i + 1 => ksUpdate128 (keyRegister128 key i) (ctr i)

/-- `generate_80(key)` (rule R68): 33 extractions, 32 updates. -/
def generate80 (key : Key80) : Schedule := Vector.ofFn fun i => rkExtract80 (keyRegister80 key i)

/-- `generate_128(key)` (rule R71). -/
def generate128 (key : Key128) : Schedule := Vector.ofFn fun i => rkExtract128 (keyRegister128 key i)

/-- KEYGEN (rule R72): the width check comes first, before `KEY_IN` is read or anything written; then the whole schedule, `KWSEL`
and `VALID` are written at once. Legal whether or not a schedule exists (rule R74). -/
def execKeygen (kw : BitVec 8) (keyIn : Key128) (s : State) : Host.Outcome State Fault Refusal :=
  if kw = 80#8 then .next ((s.install .w80 (generate80 (keyIn80 keyIn))).complete none)
  else if kw = 128#8 then .next ((s.install .w128 (generate128 (keyIn128 keyIn))).complete none)
  else .next (s.raise .invalidKeyWidth)

/-- RELEASE (rule R75): discards the schedule; never faults, also with nothing to release. -/
def execRelease (s : State) : Host.Outcome State Fault Refusal :=
  .next (s.discard.complete none)

end Sys2Proof.Machine
end

