-- ==== Sys2Proof/Machine/Dispatch.lean ====
section
/-! DEFINITION. One arm per command of spec/opcode_table.json (30_encoding rule R49). -/

namespace Sys2Proof.Machine

def exec (i : Instr) (s : State) : Host.Outcome State Fault Refusal :=
  match i with
  | .keygen kw keyIn => Sys2Proof.Machine.execKeygen kw keyIn s
  | .enc dataIn => Sys2Proof.Machine.execEnc dataIn s
  | .dec dataIn => Sys2Proof.Machine.execDec dataIn s
  | .release => Sys2Proof.Machine.execRelease s

end Sys2Proof.Machine
end

