-- ==== Sys2Proof/Machine/Serve.lean ====
section
/-! DEFINITION. Serving one event of the command stream: the decode procedure of 30_encoding rule R58 around `exec`, and reset. -/

namespace Sys2Proof.Machine

/-- One request from its being taken to its response (rule R58): IllegalCommand where it decodes to no command (60_exceptions
rule R101), else the command. -/
def serve (r : Request) (s : State) : Host.Outcome State Fault Refusal :=
  match decode r with
  | .ok i => exec i s
  | .error (.illegalCommand _) => .next (s.raise .illegalCommand)

/-- One event: a request is served whole (00_scope rule R5); a reset, between commands or during one, leaves the reset state and
no response (70_reset_and_hazards rules R113 and R114). -/
def serveEvent (e : HostEvent) (s : State) : Host.Outcome State Fault Refusal :=
  match e with
  | .request r => serve r s
  | .reset => .next s.applyReset
  | .resetDuring _ => .next s.applyReset

/-- Put a request at the head of the command stream, so that it is the next one the engine takes (20_memory rule R40). -/
def State.present (s : State) (r : Request) : State := { s with stream := .request r :: s.stream }

end Sys2Proof.Machine
end

