-- ==== Sys2Proof/Machine/Step.lean ====
section
/-! DEFINITION. One step of the machine: one whole command (00_scope rule R5), or a reset event, or, with nothing in the command
stream, an idle step that changes nothing (60_exceptions rule R112: "between commands it is idle and keeps `VALID`, `KWSEL` and
`RK` unchanged"; notes/assumptions 5). -/

namespace Sys2Proof.Machine

def step (s : State) : Host.Outcome State Fault Refusal :=
  match s.takeEvent with
  | none => .next s
  | some (e, t) => serveEvent e t

/-- `s` with the request whose lowest `nbits` bits are `w` presented next: the engine has no program and no program counter
(10_state rule R19), so a command comes to run by the host presenting it (notes/assumptions 1). -/
def State.withFetchWord (s : State) (nbits w : Nat) : State := s.present (Request.ofTableWord nbits w)

end Sys2Proof.Machine
end

