-- ==== Sys2Proof/Machine/Flags.lean ====
section
/-! DEFINITION. There are no flags, condition codes or predicates (10_state rule R20); the outcome of a command is its response
status, whose codes these are (30_encoding rule R57, 60_exceptions rule R99). -/

namespace Sys2Proof.Machine

/-- The code of a fault (rule R99). -/
def CommandFault.code : CommandFault → BitVec 8
  | .invalidKeyWidth => 0x01#8
  | .noSchedule => 0x02#8
  | .illegalCommand => 0x03#8

/-- The 8-bit value on the `STATUS` port (rule R57). -/
def Status.code : Status → BitVec 8
  | .ok => 0x00#8
  | .fault f => f.code

end Sys2Proof.Machine
end

