-- ==== Sys2Proof/Machine/Rounds.lean ====
section
/-! DEFINITION. The per-round form of the three computations over the working registers `KR`, `ST` and `RI`: 10_state rule R21
lists these "so that a per-round model can be written", and 00_scope rule R5 allows such an implementation as long as its
intermediate values stay unobservable. The machine's step does not use it: a command is atomic (rule R5). It is here to be held
against `encrypt`, `decrypt` and the generators, and to show that each command is bounded (70_reset_and_hazards rule R123); notes/assumptions 15. -/

namespace Sys2Proof.Machine

/-- One tick of a block command: either the working registers go on, or the result is there. -/
inductive BlockTick where
  | running (w : Working)
  | finished (out : Block)
  deriving DecidableEq, Repr

/-- Start of ENC: the first write of `ST` and `RI` (rule R21: `RI` runs from 0 to 31). -/
def Working.startEnc (p : Block) : Working := { Working.none with st := some p, ri := some 0 }

/-- Start of DEC (rule R21: `RI` runs from 31 to 0). -/
def Working.startDec (c : Block) : Working := { Working.none with st := some c, ri := some 31 }

/-- One tick of ENC (42_block_driver rule R91): a round while `RI` is below 31, the whitening at 31. `none` where a working
register that holds no value would be read, which no rule does (00_scope rule R11), or where `RI` is out of its range. -/
def encTick (sched : Schedule) (w : Working) : Option BlockTick :=
  match w.st, w.ri with
  | some st, some ri =>
    if h : ri.toNat < 31 then
      some (.running { w with st := some (applyRound st (sched[ri.toNat]'(Nat.lt_trans h (by decide)))), ri := some (ri + 1) })
    else if ri = 31 then some (.finished (addRoundKey st sched[31]))
    else none
  | _, _ => none

/-- One tick of DEC (rule R94): the whitening undone at 31, then an inverse round for each `RI` down to 0, which is the last. -/
def decTick (sched : Schedule) (w : Working) : Option BlockTick :=
  match w.st, w.ri with
  | some st, some ri =>
    if h : ri.toNat < 31 then
      if ri = 0 then some (.finished (invRound st sched[0]))
      else some (.running { w with st := some (invRound st (sched[ri.toNat]'(Nat.lt_trans h (by decide)))), ri := some (ri - 1) })
    else if ri = 31 then some (.running { w with st := some (addRoundKey st sched[31]), ri := some 30 })
    else none
  | _, _ => none

/-- The result a tick function gives within `n` ticks, `none` if it needs more. -/
def runTicks (tick : Working → Option BlockTick) : Nat → Working → Option Block
  | 0, _ => none
  | n + 1, w =>
    match tick w with
    | some (.running w') => runTicks tick n w'
    | some (.finished out) => some out
    | none => none

/-- Start of KEYGEN: `KR <- key` (40_key_schedule rule R63), `RI` runs from 0 to 32. An 80-bit key sits in `KR[79:0]` (rule R21). -/
def Working.startKeygen (kr : BitVec 128) : Working := { Working.none with kr := some kr, ri := some 0 }

/-- One tick of the 80-bit generator (rule R68): the round key extracted, and the working registers for the next index, `none`
after index 32. -/
def keyTick80 (w : Working) : Option (RoundKey × Option Working) :=
  match w.kr, w.ri with
  | some kr, some ri =>
    let k80 := kr.setWidth 80
    some (rkExtract80 k80,
      if ri.toNat < 32 then
        some { w with kr := some ((ksUpdate80 k80 (ctr ri.toNat)).setWidth 128), ri := some (ri + 1) }
      else none)
  | _, _ => none

/-- One tick of the 128-bit generator (rule R71). -/
def keyTick128 (w : Working) : Option (RoundKey × Option Working) :=
  match w.kr, w.ri with
  | some kr, some ri =>
    some (rkExtract128 kr,
      if ri.toNat < 32 then some { w with kr := some (ksUpdate128 kr (ctr ri.toNat)), ri := some (ri + 1) }
      else none)
  | _, _ => none

/-- The round keys a generator's ticks emit, in order, if it ends within `n` ticks; `none` if it needs more. -/
def runKeyTicks (tick : Working → Option (RoundKey × Option Working)) : Nat → Working → Option (List RoundKey)
  | 0, _ => none
  | n + 1, w =>
    match tick w with
    | some (k, some w') => (runKeyTicks tick n w').map (k :: ·)
    | some (k, none) => some [k]
    | none => none

end Sys2Proof.Machine
end

