-- ==== Sys2Proof/Safety.lean ====
section
/-! DEFINITION. The terms claims use: the invariant of the machine, and what a host observes of a sequence of requests. -/

namespace Sys2Proof.Machine

/-- The schedule invariant's clause about one instance (10_state rule R17): `KWSEL` encodes a width for which `RK` is the whole
generated schedule of some key of that width. -/
def EngineInstance.Derived (e : EngineInstance) : Prop :=
  match e.kwsel with
  | .w80 => ∃ key : Key80, e.rk = generate80 key
  | .w128 => ∃ key : Key128, e.rk = generate128 key

/-- A response carries data only with `STATUS = OK` (30_encoding rule R56). -/
abbrev Response.DataOnlyWithOk (r : Response) : Prop := r.dataOut.isSome → r.status = .ok

/-- The invariant of the machine between steps. -/
structure State.Inv (s : State) : Prop where
  /-- Rule R17: whenever `VALID = 1` the schedule is derived from a key. -/
  schedule : ∀ e, s.engine = some e → e.Derived
  /-- Rule R21: at the end of every command the working registers hold no value. -/
  working : s.work = .none
  /-- Rule R56, for every response returned so far. -/
  responses : ∀ r ∈ s.returned, r.DataOnlyWithOk
  /-- The response ports carry the last response returned. -/
  port : ∀ r, s.response = some r → s.returned.getLast? = some r

/-- The state a request leaves when it is served at `s`; `s` itself if it were not to end with a next state. -/
def after (r : Request) (s : State) : State :=
  match serve r s with
  | .next t => t
  | _ => s

/-- The response a request gets when it is served at `s`. -/
def answer (r : Request) (s : State) : Option Response :=
  match serve r s with
  | .next t => t.response
  | _ => none

/-- The responses to a sequence of requests served one after the other from `s` (20_memory rule R40, 70_reset_and_hazards
rule R124). -/
def answers : List Request → State → List (Option Response)
  | [], _ => []
  | r :: rs, s => answer r s :: answers rs (after r s)

/-- The state a sequence of requests leaves. -/
def afterAll : List Request → State → State
  | [], s => s
  | r :: rs, s => afterAll rs (after r s)

/-- The request is an ENC or a DEC (30_encoding rule R49). -/
abbrev isBlockCommand (r : Request) : Prop := opField r.cw = 0x02#8 ∨ opField r.cw = 0x03#8

/-- `OP` is one of the four defined values (rule R53). -/
abbrev isLegalOp (op : BitVec 8) : Prop := op = 0x01#8 ∨ op = 0x02#8 ∨ op = 0x03#8 ∨ op = 0x04#8

/-- `KW` is one of the two supported widths (rule R50). -/
abbrev isKeyWidth (kw : BitVec 8) : Prop := kw = 80#8 ∨ kw = 128#8

/-- The state after a command that ends with response `p` and changes no architectural state (00_scope rule R6, 30_encoding
rule R56): `engine` and `stream` are those of `s`. -/
def State.answered (s : State) (p : Response) : State :=
  { engine := s.engine, work := .none, response := some p, stream := s.stream, returned := s.returned ++ [p] }

end Sys2Proof.Machine
end

