-- ==== Sys2Proof/Certificates/Slice0/Obligations.lean ====
section
/-! DEFINITION. The statements for the provers, from the numbered rules of spec/. An instruction's statement gives its whole next
state, so it is its completion and its frame at once: the engine has no data memory (20_memory rule R31), no flags (10_state rule
R20) and no program counter (rule R19), so a state is its schedule, its working registers, its ports and the two sequences of the
outside. `State.answered` (Safety.lean) is a state whose only change is that a response was given. -/

open Sys2Proof Sys2Proof.Machine

/-! ## Reset -/

/-- 10_state rule R25: the values after reset. -/
def Obligations.ResetHoldsNoValues : Prop :=
  State.reset.valid = false ∧ State.reset.kwsel = none ∧ (∀ i : Fin 33, State.reset.rk i = none) ∧
    State.reset.work.kr = none ∧ State.reset.work.st = none ∧ State.reset.work.ri = none ∧ State.reset.response = none

/-- 70_reset_and_hazards rules R114 and R115: reset at any state, whatever the working registers hold, leaves the reset state and
produces no response; the state after reset and the state after RELEASE are the same state of the engine; a reset between commands
and a reset that cuts a command short, whatever the command, both do this. -/
def Obligations.ResetDiscardsEverything : Prop :=
  (∀ s : State,
    (s.applyReset.valid = false ∧ s.applyReset.kwsel = none ∧ (∀ i : Fin 33, s.applyReset.rk i = none) ∧
      s.applyReset.work.kr = none ∧ s.applyReset.work.st = none ∧ s.applyReset.work.ri = none ∧
      s.applyReset.response = none ∧ s.applyReset.returned = s.returned) ∧
    ∃ t, exec .release s = .next t ∧ t.valid = s.applyReset.valid ∧ t.kwsel = s.applyReset.kwsel ∧
      (∀ i : Fin 33, t.rk i = s.applyReset.rk i) ∧ t.work = s.applyReset.work) ∧
  ∀ (s : State) (r : Request), serveEvent .reset s = .next s.applyReset ∧ serveEvent (.resetDuring r) s = .next s.applyReset

/-- A reset event, also one that cuts a command short, takes one step to the reset state and answers nothing. That the two kinds of
event stand in the command stream is the model's choice (notes/assumptions 1 and 6). -/
def Obligations.ResetEventStep : Prop :=
  ∀ (s : State) (e : HostEvent) (rest : List HostEvent), s.stream = e :: rest → (e = .reset ∨ ∃ r, e = .resetDuring r) →
    step s = .next { engine := none, work := .none, response := none, stream := rest, returned := s.returned }

/-! ## Decoding and encoding -/

/-- 30_encoding rule R53: every word decodes to exactly one of KEYGEN, ENC, DEC, RELEASE or illegal; an illegal one answers
IllegalCommand (status `0x03`), whatever its operands, and changes no state; 252 of the 256 `OP` values are illegal, and the
all-zero word is. -/
def Obligations.DecoderIsTotalAndIllegalFaults : Prop :=
  (∀ r : Request,
    if opField r.cw = 0x01#8 then decode r = .ok (.keygen (kwField r.cw) r.keyIn)
    else if opField r.cw = 0x02#8 then decode r = .ok (.enc r.dataIn)
    else if opField r.cw = 0x03#8 then decode r = .ok (.dec r.dataIn)
    else if opField r.cw = 0x04#8 then decode r = .ok .release
    else decode r = .error (.illegalCommand r.cw) ∧
      ∀ s, serve r s = .next (s.answered { status := .fault .illegalCommand, dataOut := none })) ∧
  (Status.fault .illegalCommand).code = 0x03#8 ∧
  ((List.range 256).filter fun n => decide (¬ isLegalOp (BitVec.ofNat 8 n))).length = 252 ∧
  ¬ isLegalOp (opField 0x0000#16)

/-- 60_exceptions rule R101: IllegalCommand is raised when `CW[7:0]` is `0x00` or in `0x05`..`0xFF`, before `KW` or `VALID` is
looked at; no state changes, there is no data and the command word is not echoed. -/
def Obligations.IllegalCommandAnswer : Prop :=
  ∀ (r : Request) (s : State), ((opField r.cw).toNat = 0 ∨ 5 ≤ (opField r.cw).toNat) →
    serve r s = .next (s.answered { status := .fault .illegalCommand, dataOut := none }) ∧
      (Status.fault .illegalCommand).code = 0x03#8

/-- Every command is read back from its encoding, with every operand at every value. -/
def Obligations.DecodeOfEncode : Prop :=
  ∀ i : Instr, decode (encode i) = .ok i

/-- What a legal request decodes to encodes to the same operation with the same operands: only what the command ignores is lost. -/
def Obligations.EncodeOfDecode : Prop :=
  ∀ (r : Request) (i : Instr), decode r = .ok i →
    opField (encode i).cw = opField r.cw ∧
    (opField r.cw = 0x01#8 → (encode i).cw = r.cw ∧ (encode i).keyIn = r.keyIn) ∧
    (isBlockCommand r → (encode i).dataIn = r.dataIn) ∧
    decode (encode i) = decode r

/-- 30_encoding rule R59: the request an assembler line stands for, the operands in their ports and unused operands zero. -/
def Obligations.AssembledRequests : Prop :=
  (∀ (kw : BitVec 8) (k : Key128),
    encode (.keygen kw k) = { cw := (kw.setWidth 16 <<< 8) ||| 0x0001#16, keyIn := k, dataIn := 0#64 }) ∧
  (∀ x : Block, encode (.enc x) = { cw := 0x0002#16, keyIn := 0#128, dataIn := x }) ∧
  (∀ x : Block, encode (.dec x) = { cw := 0x0003#16, keyIn := 0#128, dataIn := x }) ∧
  encode .release = { cw := 0x0004#16, keyIn := 0#128, dataIn := 0#64 } ∧
  (∀ k : Key80, encode (.keygen 80#8 (placeKey80 k)) = { cw := 0x5001#16, keyIn := k.setWidth 128, dataIn := 0#64 }) ∧
  (∀ k : Key128, encode (.keygen 128#8 k) = { cw := 0x8001#16, keyIn := k, dataIn := 0#64 })

/-- Words of the spec's own tables (95_test_vectors V50 to V52 and V55). -/
def Obligations.TableWordsDecode : Prop :=
  decodeTableWord 16 0x5001 = some (.keygen 80#8 0#128) ∧ decodeTableWord 16 0x8001 = some (.keygen 128#8 0#128) ∧
    decodeTableWord 16 0x4001 = some (.keygen 64#8 0#128) ∧ decodeTableWord 16 0x0002 = some (.enc 0#64) ∧
    decodeTableWord 16 0xFF02 = some (.enc 0#64) ∧ decodeTableWord 16 0x5003 = some (.dec 0#64) ∧
    decodeTableWord 16 0xFF04 = some .release ∧ decodeTableWord 16 0x0000 = none ∧ decodeTableWord 16 0x0100 = none ∧
    decodeTableWord 16 0x0005 = none ∧ decodeTableWord 16 0xFFFF = none

/-- 30_encoding rule R51: KEYGEN reads `KEY_IN[79:0]` for `KW = 80` and `KEY_IN[127:0]` for `KW = 128` and ignores `DATA_IN`; ENC
and DEC read `DATA_IN` and ignore `KEY_IN`; RELEASE ignores both. -/
def Obligations.IgnoredOperandsDoNotMatter : Prop :=
  ∀ (r r' : Request) (s : State), r.cw = r'.cw →
    (opField r.cw = 0x01#8 → kwField r.cw = 80#8 → r.keyIn.extractLsb' 0 80 = r'.keyIn.extractLsb' 0 80 →
      serve r s = serve r' s) ∧
    (opField r.cw = 0x01#8 → kwField r.cw = 128#8 → r.keyIn = r'.keyIn → serve r s = serve r' s) ∧
    (isBlockCommand r → r.dataIn = r'.dataIn → serve r s = serve r' s) ∧
    (opField r.cw = 0x04#8 → serve r s = serve r' s)

/-- 30_encoding rule R50: `KW` is an unsigned width in bits; KEYGEN accepts exactly 80 (`0x50`) and 128 (`0x80`), 0, 64 and 96 among
the others fault with InvalidKeyWidth; for ENC, DEC and RELEASE the field is ignored. -/
def Obligations.KeyWidthFieldUse : Prop :=
  (∀ (kw : BitVec 8) (k : Key128) (s : State), ∃ t p, exec (.keygen kw k) s = .next t ∧ t.response = some p ∧
    p.status = if kw.toNat = 80 ∨ kw.toNat = 128 then .ok else .fault .invalidKeyWidth) ∧
  (∀ (kw kw' op : BitVec 8) (k : Key128) (x : Block) (s : State), op ≠ 0x01#8 →
    serve { cw := kw ++ op, keyIn := k, dataIn := x } s = serve { cw := kw' ++ op, keyIn := k, dataIn := x } s)

/-! ## The commands -/

/-- 60_exceptions rule R100: KEYGEN with any of the 254 other widths answers InvalidKeyWidth, code `0x01`, whatever `KEY_IN` is, and
changes no state: a schedule that was valid stays valid and unchanged. No other request is answered so. -/
def Obligations.InvalidKeyWidthAnswer : Prop :=
  (∀ (kw : BitVec 8) (k : Key128) (s : State), ¬ isKeyWidth kw →
    exec (.keygen kw k) s = .next (s.answered { status := .fault .invalidKeyWidth, dataOut := none })) ∧
  (∀ (r : Request) (s : State), (answer r s).map (·.status) = some (.fault .invalidKeyWidth) ↔
    opField r.cw = 0x01#8 ∧ ¬ isKeyWidth (kwField r.cw)) ∧
  (Status.fault .invalidKeyWidth).code = 0x01#8 ∧
  ((List.range 256).filter fun n => decide (¬ isKeyWidth (BitVec.ofNat 8 n))).length = 254

/-- 40_key_schedule rules R72 and R76: KEYGEN writes the whole generated schedule, `KWSEL` and `VALID` at once and answers OK with no
data, for every key, in every state; any other width faults first. The whole next state is given; with the rule's worked example. -/
def Obligations.KeygenInstallsSchedule : Prop :=
  (∀ (k : Key128) (s : State),
    exec (.keygen 80#8 k) s = .next
      { engine := some { kwsel := .w80, rk := generate80 (k.extractLsb' 0 80) }, work := .none,
        response := some { status := .ok, dataOut := none }, stream := s.stream,
        returned := s.returned ++ [{ status := .ok, dataOut := none }] }) ∧
  (∀ (k : Key128) (s : State),
    exec (.keygen 128#8 k) s = .next
      { engine := some { kwsel := .w128, rk := generate128 k }, work := .none,
        response := some { status := .ok, dataOut := none }, stream := s.stream,
        returned := s.returned ++ [{ status := .ok, dataOut := none }] }) ∧
  (∀ (kw : BitVec 8) (k : Key128) (s : State), ¬ isKeyWidth kw →
    exec (.keygen kw k) s = .next (s.answered { status := .fault .invalidKeyWidth, dataOut := none })) ∧
  (∀ (k : Key128) (x : Block), decode { cw := 0x5001#16, keyIn := k, dataIn := x } = .ok (.keygen 80#8 k)) ∧
  (∀ (k : Key128) (x : Block), decode { cw := 0x8001#16, keyIn := k, dataIn := x } = .ok (.keygen 128#8 k)) ∧
  KeyWidth.bit .w80 = 0#1 ∧ KeyWidth.bit .w128 = 1#1 ∧
  (∀ s : State, ∃ t, exec (.keygen 80#8 0#128) s = .next t ∧ t.valid = true ∧ t.kwsel = some .w80 ∧
    t.rk 0 = some 0x0000000000000000#64 ∧ t.rk 1 = some 0xC000000000000000#64 ∧ t.rk 31 = some 0x6DAB31744F41D700#64)

/-- 40_key_schedule rule R73: two KEYGEN commands with the same `KW` and the same key bits leave identical `RK`, `KWSEL` and `VALID`,
whatever states they start from. -/
def Obligations.KeygenIsDeterministic : Prop :=
  ∀ (kw : BitVec 8) (k k' : Key128) (s s' : State), isKeyWidth kw →
    (kw = 80#8 → k.extractLsb' 0 80 = k'.extractLsb' 0 80) → (kw ≠ 80#8 → k = k') →
    ∃ t t', exec (.keygen kw k) s = .next t ∧ exec (.keygen kw k') s' = .next t' ∧
      t.valid = t'.valid ∧ t.kwsel = t'.kwsel ∧ ∀ i : Fin 33, t.rk i = t'.rk i

/-- 40_key_schedule rule R74, its seven cases in order: re-key, failed re-key, failed first KEYGEN, ignored upper key bits, a 128-bit
key with zero upper bits, the all-zero and all-one keys, the unsupported widths it lists. -/
def Obligations.KeygenCornerCases : Prop :=
  (∀ (kw : BitVec 8) (k : Key128) (s : State) (old : EngineInstance), isKeyWidth kw → s.engine = some old →
    ∃ t t0, exec (.keygen kw k) s = .next t ∧ exec (.keygen kw k) { s with engine := none } = .next t0 ∧
      t.engine = t0.engine ∧ t.valid = true) ∧
  (∀ (kw : BitVec 8) (k : Key128) (s : State) (old : EngineInstance) (x : Block), ¬ isKeyWidth kw → s.engine = some old →
    ∃ t, exec (.keygen kw k) s = .next t ∧ t.engine = some old ∧
      exec (.enc x) t = .next (t.answered { status := .ok, dataOut := some (encrypt x old.rk) })) ∧
  (∀ (kw : BitVec 8) (k : Key128) (s : State) (x : Block), ¬ isKeyWidth kw → s.valid = false →
    ∃ t, exec (.keygen kw k) s = .next t ∧ t.valid = false ∧
      exec (.enc x) t = .next (t.answered { status := .fault .noSchedule, dataOut := none }) ∧
      exec (.dec x) t = .next (t.answered { status := .fault .noSchedule, dataOut := none })) ∧
  (∀ (k : Key128) (s : State), exec (.keygen 80#8 k) s = exec (.keygen 80#8 ((k.extractLsb' 0 80).setWidth 128)) s) ∧
  (∀ k : Key80, generate128 (k.setWidth 128) ≠ generate80 k) ∧
  (∀ (kw : BitVec 8) (k : Key128) (s : State), isKeyWidth kw → k = 0#128 ∨ k = BitVec.allOnes 128 →
    ∃ t, exec (.keygen kw k) s = .next t ∧ t.response = some { status := .ok, dataOut := none }) ∧
  (∀ (kw : BitVec 8) (k : Key128) (s : State), kw.toNat ∈ [0, 64, 96, 79, 81, 127, 129, 255] →
    exec (.keygen kw k) s = .next (s.answered { status := .fault .invalidKeyWidth, dataOut := none }))

/-- 40_key_schedule rule R75: RELEASE discards the schedule and answers OK with no data, in every state; afterwards ENC and DEC fault
with NoSchedule. The whole next state is given. -/
def Obligations.ReleaseDiscardsSchedule : Prop :=
  (∀ s : State, exec .release s = .next
    { engine := none, work := .none, response := some { status := .ok, dataOut := none }, stream := s.stream,
      returned := s.returned ++ [{ status := .ok, dataOut := none }] }) ∧
  (∀ r : Request, opField r.cw = 0x04#8 → decode r = .ok .release) ∧
  (∀ (s : State) (x : Block), ∃ t, exec .release s = .next t ∧ t.engine = s.applyReset.engine ∧ t.work = s.applyReset.work ∧
    exec (.enc x) t = .next (t.answered { status := .fault .noSchedule, dataOut := none }) ∧
    exec (.dec x) t = .next (t.answered { status := .fault .noSchedule, dataOut := none })) ∧
  (∀ s : State, s.valid = false → ∃ t, exec .release s = .next t ∧ t.engine = s.engine)

/-- 42_block_driver rule R92: with a schedule ENC answers OK with the ciphertext and changes no architectural state; without one it
answers NoSchedule; `KW` and `KEY_IN` are ignored; with the rule's worked example. -/
def Obligations.EncAnswersCiphertext : Prop :=
  (∀ (x : Block) (s : State) (e : EngineInstance), s.engine = some e →
    exec (.enc x) s = .next (s.answered { status := .ok, dataOut := some (encrypt x e.rk) })) ∧
  (∀ (x : Block) (s : State), s.valid = false →
    exec (.enc x) s = .next (s.answered { status := .fault .noSchedule, dataOut := none })) ∧
  (∀ (kw : BitVec 8) (k : Key128) (x : Block), decode { cw := kw ++ 0x02#8, keyIn := k, dataIn := x } = .ok (.enc x)) ∧
  (Status.fault .noSchedule).code = 0x02#8 ∧ encrypt 0#64 (generate80 0#80) = 0x5579C1387B228445#64

/-- 42_block_driver rule R95: with a schedule DEC answers OK with the plaintext and changes no architectural state; without one it
answers NoSchedule; `KW` and `KEY_IN` are ignored; the plaintext is the unique preimage; with the rule's worked example. -/
def Obligations.DecAnswersPlaintext : Prop :=
  (∀ (x : Block) (s : State) (e : EngineInstance), s.engine = some e →
    exec (.dec x) s = .next (s.answered { status := .ok, dataOut := some (decrypt x e.rk) })) ∧
  (∀ (x : Block) (s : State), s.valid = false →
    exec (.dec x) s = .next (s.answered { status := .fault .noSchedule, dataOut := none })) ∧
  (∀ (kw : BitVec 8) (k : Key128) (x : Block), decode { cw := kw ++ 0x03#8, keyIn := k, dataIn := x } = .ok (.dec x)) ∧
  (∀ (x y : Block) (sched : Schedule), decrypt y sched = x ↔ encrypt x sched = y) ∧
  (Status.fault .noSchedule).code = 0x02#8 ∧ decrypt 0x5579C1387B228445#64 (generate80 0#80) = 0#64

/-- 60_exceptions rule R102: NoSchedule is answered by ENC and DEC, exactly when `VALID = 0`, as after reset, after RELEASE or when the
only KEYGEN so far faulted; no state changes and there is no data. -/
def Obligations.NoScheduleAnswer : Prop :=
  (∀ (r : Request) (s : State), (answer r s).map (·.status) = some (.fault .noSchedule) ↔ isBlockCommand r ∧ s.valid = false) ∧
  (∀ (r : Request) (s : State), isBlockCommand r → s.valid = false →
    serve r s = .next (s.answered { status := .fault .noSchedule, dataOut := none })) ∧
  (∀ s : State, s.applyReset.valid = false) ∧
  (∀ (s t : State), exec .release s = .next t → t.valid = false) ∧
  (∀ (kw : BitVec 8) (k : Key128) (s t : State), ¬ isKeyWidth kw → s.valid = false → exec (.keygen kw k) s = .next t →
    t.valid = false) ∧
  (Status.fault .noSchedule).code = 0x02#8

/-- 60_exceptions rules R99 and R104: the status of every request, and the order of the checks; the codes of the three faults. -/
def Obligations.FaultsAndTheirPriority : Prop :=
  (∀ (r : Request) (s : State), ∃ t p, serve r s = .next t ∧ t.response = some p ∧
    p.status =
      if ¬ isLegalOp (opField r.cw) then .fault .illegalCommand
      else if opField r.cw = 0x01#8 ∧ ¬ isKeyWidth (kwField r.cw) then .fault .invalidKeyWidth
      else if isBlockCommand r ∧ s.valid = false then .fault .noSchedule
      else .ok) ∧
  CommandFault.code .invalidKeyWidth = 0x01#8 ∧ CommandFault.code .noSchedule = 0x02#8 ∧
  CommandFault.code .illegalCommand = 0x03#8

/-- 30_encoding rule R57: the status codes; no other value is ever produced. -/
def Obligations.StatusCodes : Prop :=
  Status.code .ok = 0x00#8 ∧ Status.code (.fault .invalidKeyWidth) = 0x01#8 ∧ Status.code (.fault .noSchedule) = 0x02#8 ∧
    Status.code (.fault .illegalCommand) = 0x03#8 ∧ ∀ st : Status, st.code.toNat < 4

/-- 30_encoding rule R56: exactly one response per request, and `DATA_OUT` has a value if and only if the command was ENC or DEC and
the status is OK. -/
def Obligations.ResponseForm : Prop :=
  ∀ (r : Request) (s : State), ∃ t p, serve r s = .next t ∧ t.returned = s.returned ++ [p] ∧ t.response = some p ∧
    (p.dataOut.isSome = true ↔ isBlockCommand r ∧ p.status = .ok)

/-- 00_scope rule R6: a command ends `ok`, or it faults, changes no state and returns only the code; there is no third outcome. -/
def Obligations.CommandsEndOkOrFault : Prop :=
  ∀ (r : Request) (s : State), ∃ t p, serve r s = .next t ∧ t.response = some p ∧
    (p.status = .ok ∨ ∃ f, p = { status := .fault f, dataOut := none } ∧ t = s.answered p)

/-- A faulting command may be deleted from a command sequence without changing any other response or the engine's final state
(60_exceptions rule R106, marked there as derived). -/
def Obligations.FaultingRequestIsDeletable : Prop :=
  ∀ (before rest : List Request) (r : Request) (s : State) (f : CommandFault),
    (answer r (afterAll before s)).map (·.status) = some (.fault f) →
    answers (before ++ rest) s = (answers (before ++ r :: rest) s).eraseIdx before.length ∧
      (afterAll (before ++ rest) s).engine = (afterAll (before ++ r :: rest) s).engine

/-- What each command leaves unchanged: no command touches the command stream or a response already returned, ENC and DEC leave
`VALID`, `KWSEL` and every round key, as does a KEYGEN that faults. -/
def Obligations.CommandFrames : Prop :=
  ∀ (s t : State),
    (∀ i : Instr, exec i s = .next t → t.stream = s.stream ∧ s.returned <+: t.returned) ∧
    (∀ x : Block, exec (.enc x) s = .next t ∨ exec (.dec x) s = .next t →
      t.valid = s.valid ∧ t.kwsel = s.kwsel ∧ ∀ i : Fin 33, t.rk i = s.rk i) ∧
    (∀ (kw : BitVec 8) (k : Key128), ¬ isKeyWidth kw → exec (.keygen kw k) s = .next t →
      t.valid = s.valid ∧ t.kwsel = s.kwsel ∧ ∀ i : Fin 33, t.rk i = s.rk i)

/-- 10_state rule R18: between a KEYGEN that ends `ok` and the next one, or a RELEASE or reset, nothing changes the schedule; ENC and DEC
write no architectural state; a new key replaces all of `RK`, `KWSEL` and `VALID` by values that do not depend on the old ones. -/
def Obligations.ScheduleIsFrozen : Prop :=
  (∀ (r : Request) (s t : State), serve r s = .next t → t.engine ≠ s.engine →
    opField r.cw = 0x04#8 ∨ opField r.cw = 0x01#8 ∧ isKeyWidth (kwField r.cw)) ∧
  (∀ (r : Request) (s : State), isBlockCommand r → (after r s).engine = s.engine) ∧
  (∀ (r : Request) (s s' : State), opField r.cw = 0x01#8 → isKeyWidth (kwField r.cw) →
    (after r s).engine = (after r s').engine ∧ (after r s).valid = true)

/-! ## Invariants and whole-machine rules -/

/-- Every step keeps the invariant: the schedule is derived from a key of the width `KWSEL` encodes (10_state rule R17, marked there as
derived), the working registers are empty, no response carries data unless it is OK, and the ports carry the last response (the
model's choice, notes/assumptions 16). -/
def Obligations.StepKeepsScheduleDerived : Prop :=
  ∀ s t : State, s.Inv → step s = .next t → t.Inv

/-- The invariant holds at reset. -/
def Obligations.ResetHasScheduleDerived : Prop :=
  State.reset.Inv

/-- Only three things change the schedule: a reset, a RELEASE, and a KEYGEN with a supported width. A step that changes it takes one of
them from the command stream (10_state rules R14 and R18 at the level of a step; that the stream stands in State is the model's
choice, notes/assumptions 1). -/
def Obligations.OnlyNamedEventsChangeSchedule : Prop :=
  ∀ s t : State, step s = .next t → t.engine ≠ s.engine →
    ∃ e rest, s.stream = e :: rest ∧
      (e = .reset ∨ (∃ r, e = .resetDuring r) ∨
        ∃ r, e = .request r ∧ (opField r.cw = 0x04#8 ∨ opField r.cw = 0x01#8 ∧ isKeyWidth (kwField r.cw)))

/-- The machine never stops: every step of every state has a next state, and with nothing in the command stream the engine is idle and
keeps everything. 60_exceptions rule R112 says of an idle engine that it keeps `VALID`, `KWSEL` and `RK`; that an idle step keeps the
whole state is the model's inference (notes/assumptions 5), that the response ports keep the last response is the model's choice
(notes/assumptions 16), and the command stream is the model's own field (notes/assumptions 1). -/
def Obligations.MachineNeverStops : Prop :=
  (∀ s : State, ∃ t, step s = .next t) ∧ ∀ s : State, s.stream = [] → step s = .next s

/-- A step whose next event is a request that decodes runs exactly that command, on the state with the event taken. -/
def Obligations.StepRunsDecodedCommand : Prop :=
  ∀ (s : State) (r : Request) (rest : List HostEvent) (i : Instr), s.stream = .request r :: rest → decode r = .ok i →
    step s = exec i { s with stream := rest }

/-- After a step that takes an event, the working registers hold no value, whatever they held before. -/
def Obligations.WorkingRegistersAreEmptied : Prop :=
  ∀ s t : State, s.stream ≠ [] → step s = .next t → t.work.kr = none ∧ t.work.st = none ∧ t.work.ri = none

/-- ENC and DEC commands may be reordered freely: every order gives each of them the same response and leaves the same engine
(20_memory rule R41, marked there as derived). -/
def Obligations.BlockCommandsCommute : Prop :=
  ∀ (rs rs' : List Request) (s : State), (∀ r ∈ rs, isBlockCommand r) → rs.Perm rs' →
    (rs.zip (answers rs s)).Perm (rs'.zip (answers rs' s)) ∧
      (afterAll rs s).engine = s.engine ∧ (afterAll rs' s).engine = s.engine

/-- The result of a command is a function of the architectural state and its own request, and of nothing else. -/
def Obligations.ResultsDependOnEngineAndRequest : Prop :=
  ∀ (r : Request) (s s' : State), s.engine = s'.engine →
    ∃ t t', serve r s = .next t ∧ serve r s' = .next t' ∧ t.response = t'.response ∧ t.engine = t'.engine

/-- A run of as many steps as there are requests in the stream takes them one at a time, in order, and returns exactly the sequence of
their responses. That the stream and the returned responses stand in State is the model's choice (notes/assumptions 1 and 2). -/
def Obligations.RunServesRequestsInOrder : Prop :=
  ∀ (rs : List Request) (s : State), s.stream = rs.map HostEvent.request →
    ∃ t, Host.Core.run Sys2Proof.core rs.length s = .next t ∧ t.stream = [] ∧
      t.returned.map some = s.returned.map some ++ answers rs s ∧ t.engine = (afterAll rs s).engine

/-- 10_state rule R22: after KEYGEN, with either outcome, the engine holds no copy of the key other than what the schedule contains: two
keys with the same schedule leave the same state, as do any two keys where KEYGEN faults, `KR` holds no value, and `RK[0]` is the top
64 bits of the key. -/
def Obligations.KeyIsNotRetained : Prop :=
  (∀ (k k' : Key128) (s : State), generate80 (k.extractLsb' 0 80) = generate80 (k'.extractLsb' 0 80) →
    exec (.keygen 80#8 k) s = exec (.keygen 80#8 k') s) ∧
  (∀ (k k' : Key128) (s : State), generate128 k = generate128 k' → exec (.keygen 128#8 k) s = exec (.keygen 128#8 k') s) ∧
  (∀ (kw : BitVec 8) (k k' : Key128) (s : State), ¬ isKeyWidth kw → exec (.keygen kw k) s = exec (.keygen kw k') s) ∧
  (∀ (kw : BitVec 8) (k : Key128) (s t : State), exec (.keygen kw k) s = .next t → t.work.kr = none) ∧
  (∀ k : Key80, (generate80 k)[0] = k.extractLsb' 16 64) ∧
  (∀ k : Key128, (generate128 k)[0] = k.extractLsb' 64 64)

/-! ## The round function -/

/-- 41_round_function rule R77: key mixing is bitwise xor, its own inverse; the zero key changes nothing, the all-one key complements. -/
def Obligations.AddRoundKeyIsXor : Prop :=
  ∀ (s : Block) (k : RoundKey), addRoundKey s k = s ^^^ k ∧ addRoundKey (addRoundKey s k) k = s ∧ addRoundKey s 0#64 = s ∧
    addRoundKey s 0xFFFFFFFFFFFFFFFF#64 = ~~~s ∧ addRoundKey 0x0123456789ABCDEF#64 0xFFFFFFFFFFFFFFFF#64 = 0xFEDCBA9876543210#64

/-- The constant tables: the S-box entries, a permutation without fixed points in which every value occurs exactly once, and `SBOX_INV`,
its inverse but not its own; the permutation tables in closed form, inverse bijections of the 64 positions, every one of which occurs
exactly once (41_round_function rules R78, R80, R82, R83, R85 and R87,
whose entries are marked there as general knowledge, G1 and G2, or derived: notes/assumptions 7). -/
def Obligations.TablesAreInverseBijections : Prop :=
  SBOX.toList = [0xC, 0x5, 0x6, 0xB, 0x9, 0x0, 0xA, 0xD, 0x3, 0xE, 0xF, 0x8, 0x4, 0x7, 0x1, 0x2] ∧
    (∀ n : Nibble, sboxInv (sbox n) = n ∧ sbox (sboxInv n) = n ∧ sbox n ≠ n) ∧ (∀ v : Nibble, ∃ n, sbox n = v) ∧
    SboxTablesValid SBOX SBOX_INV ∧ sboxInv (sboxInv 0) = 1 ∧ PermTablesValid PERM PERM_INV ∧
    ∀ i : BitPos, (perm i).toNat = 16 * (i.toNat % 4) + i.toNat / 4 ∧ (permInv i).toNat = 4 * (i.toNat % 16) + i.toNat / 16 ∧
      permInv (perm i) = i ∧ perm (permInv i) = i

/-- The substitution layer replaces each aligned nibble by its table entry, with no dependency between nibbles (41_round_function rule
R79, whose partition into nibbles is marked there as general knowledge, G1). -/
def Obligations.SubstitutionIsNibblewise : Prop :=
  ∀ (s : Block) (j : Nat), j < 16 →
    (sboxLayer s).extractLsb' (4 * j) 4 = sbox (s.extractLsb' (4 * j) 4)

/-- 41_round_function rule R81: the inverse layer replaces each nibble by its `SBOX_INV` entry, and the two layers undo each other;
with the rule's worked examples. -/
def Obligations.InverseSubstitutionUndoes : Prop :=
  (∀ (s : Block) (j : Nat), j < 16 →
    (invSboxLayer s).extractLsb' (4 * j) 4 = sboxInv (s.extractLsb' (4 * j) 4)) ∧
  (∀ s : Block, invSboxLayer (sboxLayer s) = s ∧ sboxLayer (invSboxLayer s) = s) ∧
  invSboxLayer 0xC56B90AD3EF84712#64 = 0x0123456789ABCDEF#64 ∧ invSboxLayer 0#64 = 0x5555555555555555#64 ∧
  invSboxLayer 0xFFFFFFFFFFFFFFFF#64 = 0xAAAAAAAAAAAAAAAA#64

/-- 41_round_function rule R84: bit `i` moves to position `PERM[i]`, the number of one bits is preserved, bits 0, 21, 42 and 63 stay;
with the rule's corner cases and worked examples. -/
def Obligations.PermutationMovesBits : Prop :=
  (∀ (s : Block) (i : BitPos), (pLayer s).getLsbD (perm i).toNat = s.getLsbD i.toNat) ∧
  (∀ s : Block, (List.range 64).countP (fun i => (pLayer s).getLsbD i) = (List.range 64).countP (fun i => s.getLsbD i)) ∧
  (∀ s : Block, ∀ i ∈ [0, 21, 42, 63], (pLayer s).getLsbD i = s.getLsbD i) ∧
  pLayer 0#64 = 0#64 ∧ pLayer 0xFFFFFFFFFFFFFFFF#64 = 0xFFFFFFFFFFFFFFFF#64 ∧
  pLayer 0x8000000000000001#64 = 0x8000000000000001#64 ∧ pLayer 0x0000000000000002#64 = 0x0000000000010000#64 ∧
  pLayer 0x0000000000000010#64 = 0x0000000000000002#64 ∧ pLayer 0x000000000000FFFF#64 = 0x000F000F000F000F#64 ∧
  pLayer 0x0123456789ABCDEF#64 = 0x00FF0F0F33335555#64

/-- 41_round_function rule R86: bit `j` moves to position `PERM_INV[j]`, equivalently bit `i` of the result is bit `PERM[i]` of the
argument; the two layers undo each other; with the rule's worked examples. -/
def Obligations.InversePermutationUndoes : Prop :=
  (∀ (s : Block) (i : BitPos), (invPLayer s).getLsbD (permInv i).toNat = s.getLsbD i.toNat ∧
    (invPLayer s).getLsbD i.toNat = s.getLsbD (perm i).toNat) ∧
  (∀ s : Block, invPLayer (pLayer s) = s ∧ pLayer (invPLayer s) = s) ∧
  invPLayer 0x0000000000010000#64 = 0x0000000000000002#64 ∧ invPLayer 0x00FF0F0F33335555#64 = 0x0123456789ABCDEF#64 ∧
  invPLayer 0x0123456789ABCDEF#64 = 0x3500350F35F035FF#64

/-- The permutation layer has order three and is no involution: bit 1 goes to 16, then to 4, then to 1 (41_round_function rule R87,
marked there as derived). -/
def Obligations.PermutationHasOrderThree : Prop :=
  (MovesInOrderThree perm permInv ∧ perm 1 = 16 ∧ perm 16 = 4 ∧ perm 4 = 1) ∧
  (∀ s : Block, pLayer (pLayer (pLayer s)) = s ∧ invPLayer s = pLayer (pLayer s)) ∧ ∃ s : Block, pLayer (pLayer s) ≠ s

/-- 41_round_function rule R88: the round is key mixing, then substitution, then permutation; with the rule's examples. -/
def Obligations.RoundStepsInOrder : Prop :=
  (∀ (s : Block) (k : RoundKey), applyRound s k = pLayer (sboxLayer (s ^^^ k))) ∧
  applyRound 0#64 0#64 = 0xFFFFFFFF00000000#64 ∧
  applyRound 0x0123456789ABCDEF#64 0xFFFFFFFFFFFFFFFF#64 = 0x0ED93687A74C659A#64

/-- The inverse round and the round undo each other under every round key (41_round_function rule R89, marked there as derived). -/
def Obligations.InverseRoundUndoes : Prop :=
  ∀ (s : Block) (k : RoundKey), invRound s k = invSboxLayer (invPLayer s) ^^^ k ∧ invRound (applyRound s k) k = s ∧
    applyRound (invRound s k) k = s

/-! ## The key schedule -/

/-- Rotation as slices: left by 61 is right by 19 within 80 bits and right by 67 within 128 bits, and no bit is lost (00_scope rule
R10, part (b)). -/
def Obligations.RotationBySlices : Prop :=
  (∀ v : BitVec 80, rotl v 61 = v.extractLsb' 0 19 ++ v.extractLsb' 19 61 ∧ rotl (rotl v 61) 19 = v) ∧
  (∀ v : BitVec 128, rotl v 61 = v.extractLsb' 0 67 ++ v.extractLsb' 67 61 ∧ rotl (rotl v 61) 67 = v) ∧
  (∀ (w n : Nat) (v : BitVec w), rotl v n = rotl v (n % w)) ∧
  (∀ (w n i : Nat) (v : BitVec w), n < w → i < w → (rotl v n).getLsbD ((i + n) % w) = v.getLsbD i)

/-- 40_key_schedule rule R66: the 80-bit register update, step by step; the counter step changes bits 19..15 only and the S-box step
bits 79..76 only, so their order cannot matter; for each counter value the update is a bijection; with the rule's example. -/
def Obligations.KeyUpdateOf80Bits : Prop :=
  (∀ (kr : BitVec 80) (c : Counter),
    let t1 : BitVec 80 := kr.extractLsb' 0 19 ++ kr.extractLsb' 19 61
    let t2 : BitVec 80 := sbox (t1.extractLsb' 76 4) ++ t1.extractLsb' 0 76
    ksUpdate80 kr c = t2 ^^^ (c.setWidth 80 <<< 15) ∧
      (ksUpdate80 kr c).extractLsb' 15 5 = t2.extractLsb' 15 5 ^^^ c ∧
      ∀ i, i < 15 ∨ 19 < i → (ksUpdate80 kr c).getLsbD i = t2.getLsbD i) ∧
  (∀ (t : BitVec 80) (c : Counter), sboxTop80 (t ^^^ (c.setWidth 80 <<< 15)) = sboxTop80 t ^^^ (c.setWidth 80 <<< 15)) ∧
  (∀ c : Counter, Function.Bijective fun kr => ksUpdate80 kr c) ∧
  ksUpdate80 0#80 1#5 = 0xC0000000000000008000#80

/-- The 128-bit register update, step by step, and that it is a bijection (40_key_schedule rule R69, whose nibbles and counter position
are marked there as general knowledge, G3 and G4: notes/assumptions 8). -/
def Obligations.KeyUpdateOf128Bits : Prop :=
  (∀ (kr : BitVec 128) (c : Counter),
    let t1 : BitVec 128 := kr.extractLsb' 0 67 ++ kr.extractLsb' 67 61
    let t2 : BitVec 128 := sbox (t1.extractLsb' 124 4) ++ sbox (t1.extractLsb' 120 4) ++ t1.extractLsb' 0 120
    ksUpdate128 kr c = t2 ^^^ (c.setWidth 128 <<< 62) ∧
      (ksUpdate128 kr c).extractLsb' 62 5 = t2.extractLsb' 62 5 ^^^ c ∧
      ∀ i, i < 62 ∨ 66 < i → (ksUpdate128 kr c).getLsbD i = t2.getLsbD i) ∧
  (∀ c : Counter, Function.Bijective fun kr => ksUpdate128 kr c) ∧
  ksUpdate128 0#128 1#5 = 0xCC000000000000004000000000000000#128

/-- 40_key_schedule rules R65 and R68: the 80-bit register starts as the key, is updated with the counter `(i + 1) mod 32`, and round
key i is its top 64 bits, for i = 0..32; with the rule's worked example. -/
def Obligations.ScheduleOf80BitKeys : Prop :=
  (∀ key : Key80, ∃ kr : Nat → BitVec 80, kr 0 = key ∧
    (∀ i, i < 32 → kr (i + 1) = ksUpdate80 (kr i) (BitVec.ofNat 5 ((i + 1) % 32))) ∧
    ∀ (i : Nat) (hi : i < 33), (generate80 key)[i] = (kr i).extractLsb' 16 64) ∧
  (generate80 0#80)[0] = 0x0000000000000000#64 ∧ (generate80 0#80)[1] = 0xC000000000000000#64 ∧
  (generate80 0#80)[2] = 0x5000180000000001#64 ∧ (generate80 0#80)[3] = 0x60000A0003000001#64 ∧ (generate80 0#80)[31] = 0x6DAB31744F41D700#64 ∧
  (generate80 0#80)[32] = 0x50EB2DB5662E89E8#64

/-- 40_key_schedule rules R65 and R71: the 128-bit register starts as the key, is updated with the counter `(i + 1) mod 32`, and round
key i is its top 64 bits, for i = 0..32; with the rule's worked example, whose values rest on G3 and G4 (notes/assumptions 8). -/
def Obligations.ScheduleOf128BitKeys : Prop :=
  (∀ key : Key128, ∃ kr : Nat → BitVec 128, kr 0 = key ∧
    (∀ i, i < 32 → kr (i + 1) = ksUpdate128 (kr i) (BitVec.ofNat 5 ((i + 1) % 32))) ∧
    ∀ (i : Nat) (hi : i < 33), (generate128 key)[i] = (kr i).extractLsb' 64 64) ∧
  (generate128 0#128)[0] = 0x0000000000000000#64 ∧ (generate128 0#128)[1] = 0xCC00000000000000#64 ∧
  (generate128 0#128)[2] = 0xC300000000000000#64 ∧ (generate128 0#128)[3] = 0x5B30000000000000#64 ∧
  (generate128 0#128)[4] = 0x580C000000000001#64 ∧ (generate128 0#128)[31] = 0x97534980AECED6B7#64 ∧
  (generate128 0#128)[32] = 0x2028B2C1EE3E1F8C#64

/-- 40_key_schedule rule R67: the last update injects 0, so no counter bit is flipped; the choice is unobservable, since ENC and DEC
answer the same whatever `RK[32]` is. -/
def Obligations.LastCounterIsZeroAndUnobservable : Prop :=
  ctr 31 = 0#5 ∧ (∀ i, i < 31 → (ctr i).toNat = i + 1) ∧
  (∀ kr : BitVec 80, ksUpdate80 kr (ctr 31) = sboxTop80 (rotl kr 61)) ∧
  (∀ kr : BitVec 128, ksUpdate128 kr (ctr 31) = sboxTop128 (rotl kr 61)) ∧
  ∀ (s : State) (e : EngineInstance) (k : RoundKey) (x : Block) (i : Instr), i = .enc x ∨ i = .dec x → s.engine = some e →
    ∃ t t', exec i s = .next t ∧ exec i { s with engine := some { e with rk := e.rk.set 32 k } } = .next t' ∧
      t.response = t'.response

/-- The schedule determines the key (70_reset_and_hazards rule R122, marked there as derived). -/
def Obligations.ScheduleDeterminesKey : Prop :=
  (∀ k k' : Key80, generate80 k = generate80 k' → k = k') ∧ (∀ k k' : Key128, generate128 k = generate128 k' → k = k')

/-! ## The block driver -/

/-- 42_block_driver rule R91: 31 rounds with `sched[0]` to `sched[30]`, then one xor with `sched[31]`; `sched[32]` is not used. -/
def Obligations.EncryptionRounds : Prop :=
  (∀ (p : Block) (sched : Schedule), ∃ st : Nat → Block, st 0 = p ∧
    (∀ (r : Nat) (hr : r < 31), st (r + 1) = applyRound (st r) (sched[r]'(Nat.lt_trans hr (by decide)))) ∧
    encrypt p sched = st 31 ^^^ sched[31]) ∧
  (∀ (p : Block) (sched : Schedule) (k : RoundKey), encrypt p (sched.set 32 k) = encrypt p sched)

/-- 42_block_driver rule R94: the whitening undone with `sched[31]`, then 31 inverse rounds with `sched[30]` down to `sched[0]`;
`sched[32]` is not used. -/
def Obligations.DecryptionRounds : Prop :=
  (∀ (c : Block) (sched : Schedule), ∃ st : Nat → Block, st 31 = c ^^^ sched[31] ∧
    (∀ (r : Nat) (hr : r < 31), st r = invRound (st (r + 1)) (sched[r]'(Nat.lt_trans hr (by decide)))) ∧
    decrypt c sched = st 0) ∧
  (∀ (c : Block) (sched : Schedule) (k : RoundKey), decrypt c (sched.set 32 k) = decrypt c sched)

/-- Round trip, for every Block and every sequence used as a schedule, both ways, and between ENC and DEC commands; so encryption under
a fixed schedule is a bijection on the Blocks (42_block_driver rules R96, whose extension to every sequence is marked there as derived,
and R97, marked as derived). -/
def Obligations.DecryptUndoesEncrypt : Prop :=
  (∀ (x : Block) (sched : Schedule), decrypt (encrypt x sched) sched = x ∧ encrypt (decrypt x sched) sched = x) ∧
  (∀ sched : Schedule, Function.Bijective fun p => encrypt p sched) ∧
  (∀ (x : Block) (s : State), s.valid = true →
    (∃ t u y, exec (.enc x) s = .next t ∧ t.response = some { status := .ok, dataOut := some y } ∧ exec (.dec y) t = .next u ∧
      u.response = some { status := .ok, dataOut := some x }) ∧
    (∃ t u y, exec (.dec x) s = .next t ∧ t.response = some { status := .ok, dataOut := some y } ∧ exec (.enc y) t = .next u ∧
      u.response = some { status := .ok, dataOut := some x }))

/-- The source's one known-answer vector (95_test_vectors V1), both ways, and the first of the derived 128-bit ones (V5). -/
def Obligations.KnownAnswerVector : Prop :=
  encrypt 0x0000000000000000#64 (generate80 0#80) = 0x5579C1387B228445#64 ∧
    decrypt 0x5579C1387B228445#64 (generate80 0#80) = 0x0000000000000000#64 ∧
    encrypt 0x0000000000000000#64 (generate128 0#128) = 0x96DB702A2E6900AF#64

/-! ## The per-round form -/

/-- A per-round engine over `ST` and `RI` (10_state rule R21) gives the atomic command's result after exactly 32 ticks. The division
into ticks, one round or one whitening each, and so their number, is the model's choice (notes/assumptions 15). -/
def Obligations.PerRoundEngineMatchesDriver : Prop :=
  ∀ (x : Block) (sched : Schedule),
    runTicks (encTick sched) 32 (Working.startEnc x) = some (encrypt x sched) ∧
    runTicks (encTick sched) 31 (Working.startEnc x) = none ∧
    runTicks (decTick sched) 32 (Working.startDec x) = some (decrypt x sched) ∧
    runTicks (decTick sched) 31 (Working.startDec x) = none

/-- A per-round generator over `KR` and `RI` (10_state rule R21) emits the schedule in exactly 33 ticks; an 80-bit key uses `KR[79:0]`
only. The division into ticks, one round key each, their number, and the zero upper bits of `KR` after an 80-bit update are the
model's choice (notes/assumptions 15). -/
def Obligations.PerRoundGeneratorMatchesSchedule : Prop :=
  (∀ k : Key128, runKeyTicks keyTick80 33 (Working.startKeygen k) = some (generate80 (k.extractLsb' 0 80)).toList) ∧
  (∀ k : Key128, runKeyTicks keyTick128 33 (Working.startKeygen k) = some (generate128 k).toList) ∧
  (∀ k : Key128, runKeyTicks keyTick80 32 (Working.startKeygen k) = none ∧
    runKeyTicks keyTick128 32 (Working.startKeygen k) = none)

/-! ## The ports -/

/-- 20_memory rule R35: the bytes of a Block, most significant first, and that they are the Block; with the rule's example. -/
def Obligations.BlockBytesAreBigEndian : Prop :=
  (∀ v : Block, blockBytes v = #v[v.extractLsb' 56 8, v.extractLsb' 48 8, v.extractLsb' 40 8, v.extractLsb' 32 8,
    v.extractLsb' 24 8, v.extractLsb' 16 8, v.extractLsb' 8 8, v.extractLsb' 0 8]) ∧
  (∀ v : Block, blockOfBytes (blockBytes v) = v) ∧ (∀ bs : Vector Byte 8, blockBytes (blockOfBytes bs) = bs) ∧
  blockBytes 0x0123456789ABCDEF#64 = #v[0x01, 0x23, 0x45, 0x67, 0x89, 0xAB, 0xCD, 0xEF]

/-- 20_memory rule R36: where a key sits in `KEY_IN`, that the upper 48 bits are ignored for an 80-bit key, and the bytes of a key, most
significant first; with the rule's example. -/
def Obligations.KeyPortLayout : Prop :=
  (∀ (k : Key128) (s : State) (upper : BitVec 48),
    exec (.keygen 80#8 (upper ++ k.extractLsb' 0 80)) s = exec (.keygen 80#8 k) s) ∧
  (∀ (k : Key80) (s : State), ∃ t, exec (.keygen 80#8 (k.setWidth 128)) s = .next t ∧
    t.engine = some { kwsel := .w80, rk := generate80 k }) ∧
  (∀ (k : Key128) (s : State), ∃ t, exec (.keygen 128#8 k) s = .next t ∧
    t.engine = some { kwsel := .w128, rk := generate128 k }) ∧
  (∀ (k : Key80) (j : Nat) (hj : j < 10), (key80Bytes k)[j] = k.extractLsb' (72 - 8 * j) 8) ∧
  (∀ (k : Key128) (j : Nat) (hj : j < 16), (key128Bytes k)[j] = k.extractLsb' (120 - 8 * j) 8) ∧
  (∀ k : Key80, key80OfBytes (key80Bytes k) = k) ∧ (∀ k : Key128, key128OfBytes (key128Bytes k) = k) ∧
  key80Bytes 0x00112233445566778899#80 = #v[0x00, 0x11, 0x22, 0x33, 0x44, 0x55, 0x66, 0x77, 0x88, 0x99]
end

