-- ==== Sys2Proof/Laws/BlockDriver.lean ====
section
/-! SUPPORT. What the parts of the block driver do. -/

namespace Sys2Proof.Machine

theorem length_roundKeys (sched : Schedule) : (roundKeys sched).length = 31 := by
  simp [roundKeys, Config.nRounds, Config.nRk]

/-- Round `r` consumes round key `r`. -/
theorem getElem_roundKeys (sched : Schedule) (r : Nat) (hr : r < 31) :
    (roundKeys sched)[r]'(by rw [length_roundKeys]; exact hr) = sched[r]'(Nat.lt_trans hr (by decide)) := by
  simp [roundKeys]

/-- The driver's two functions see a schedule only through its first 31 round keys and the whitening key. -/
theorem roundKeys_congr {a b : Schedule} (h : ∀ i (hi : i < 31), a[i]'(Nat.lt_trans hi (by decide)) = b[i]'(Nat.lt_trans hi (by decide))) :
    roundKeys a = roundKeys b := by
  apply List.ext_getElem
  · rw [length_roundKeys, length_roundKeys]
  · intro i h1 h2
    rw [length_roundKeys] at h1
    rw [getElem_roundKeys a i h1, getElem_roundKeys b i h1, h i h1]

/-- Undoing a list of steps in reverse order, where each step undoes its partner. -/
theorem foldl_reverse_foldl {α β : Type} {f g : α → β → α} (h : ∀ a b, g (f a b) b = a) (l : List β) (a : α) :
    l.reverse.foldl g (l.foldl f a) = a := by
  induction l generalizing a with
  | nil => rfl
  | cons b l ih => rw [List.foldl_cons, List.reverse_cons, List.foldl_append, ih, List.foldl_cons, List.foldl_nil, h]

end Sys2Proof.Machine
end

