-- ==== Sys2Proof/Laws/Decode.lean ====
section
/-! SUPPORT. What the decoder answers, case by case, and the fields of an encoded word. -/

namespace Sys2Proof

/-- The bits of a command word (30_encoding rule R48). -/
theorem getLsbD_mkCw (kw op : BitVec 8) (i : Nat) :
    (mkCw kw op).getLsbD i = if i < 8 then op.getLsbD i else kw.getLsbD (i - 8) :=
  BitVec.getLsbD_append

@[simp] theorem opField_mkCw (kw op : BitVec 8) : opField (mkCw kw op) = op := by
  apply BitVec.eq_of_getLsbD_eq
  intro i hi
  simp only [opField, BitVec.getLsbD_extractLsb', getLsbD_mkCw, Nat.zero_add, hi, decide_true, Bool.true_and, if_true]

@[simp] theorem kwField_mkCw (kw op : BitVec 8) : kwField (mkCw kw op) = kw := by
  apply BitVec.eq_of_getLsbD_eq
  intro i hi
  have h : ¬ 8 + i < 8 := by omega
  simp only [kwField, BitVec.getLsbD_extractLsb', getLsbD_mkCw, hi, decide_true, Bool.true_and, if_neg h, Nat.add_sub_cancel_left]

/-- A command word is its two fields. -/
theorem mkCw_fields (cw : CommandWord) : mkCw (kwField cw) (opField cw) = cw := by
  apply BitVec.eq_of_getLsbD_eq
  intro i hi
  rw [getLsbD_mkCw]
  split
  · simp only [opField, BitVec.getLsbD_extractLsb', Nat.zero_add, *, decide_true, Bool.true_and]
  · have h1 : i - 8 < 8 := by omega
    have h2 : 8 + (i - 8) = i := by omega
    simp only [kwField, BitVec.getLsbD_extractLsb', h1, h2, decide_true, Bool.true_and]

theorem decode_keygen {r : Request} (h : opField r.cw = 0x01#8) : decode r = .ok (.keygen (kwField r.cw) r.keyIn) := by
  simp [decode, h]

theorem decode_enc {r : Request} (h : opField r.cw = 0x02#8) : decode r = .ok (.enc r.dataIn) := by
  simp [decode, h]

theorem decode_dec {r : Request} (h : opField r.cw = 0x03#8) : decode r = .ok (.dec r.dataIn) := by
  simp [decode, h]

theorem decode_release {r : Request} (h : opField r.cw = 0x04#8) : decode r = .ok .release := by
  simp [decode, h]

theorem decode_illegal {r : Request} (h1 : opField r.cw ≠ 0x01#8) (h2 : opField r.cw ≠ 0x02#8) (h3 : opField r.cw ≠ 0x03#8)
    (h4 : opField r.cw ≠ 0x04#8) : decode r = .error (.illegalCommand r.cw) := by
  simp [decode, h1, h2, h3, h4]

/-- Everything the decoder can answer. -/
theorem decode_cases (r : Request) :
    (opField r.cw = 0x01#8 ∧ decode r = .ok (.keygen (kwField r.cw) r.keyIn)) ∨
    (opField r.cw = 0x02#8 ∧ decode r = .ok (.enc r.dataIn)) ∨
    (opField r.cw = 0x03#8 ∧ decode r = .ok (.dec r.dataIn)) ∨
    (opField r.cw = 0x04#8 ∧ decode r = .ok .release) ∨
    ((opField r.cw ≠ 0x01#8 ∧ opField r.cw ≠ 0x02#8 ∧ opField r.cw ≠ 0x03#8 ∧ opField r.cw ≠ 0x04#8) ∧
      decode r = .error (.illegalCommand r.cw)) := by
  by_cases h1 : opField r.cw = 0x01#8
  · exact .inl ⟨h1, decode_keygen h1⟩
  by_cases h2 : opField r.cw = 0x02#8
  · exact .inr (.inl ⟨h2, decode_enc h2⟩)
  by_cases h3 : opField r.cw = 0x03#8
  · exact .inr (.inr (.inl ⟨h3, decode_dec h3⟩))
  by_cases h4 : opField r.cw = 0x04#8
  · exact .inr (.inr (.inr (.inl ⟨h4, decode_release h4⟩)))
  exact .inr (.inr (.inr (.inr ⟨⟨h1, h2, h3, h4⟩, decode_illegal h1 h2 h3 h4⟩)))

end Sys2Proof
end

