-- ==== Sys2Proof/Laws/KeySchedule.lean ====
section
/-! SUPPORT. What the parts of the key schedule do. -/

namespace Sys2Proof.Machine

/-- Bit `i` of a rotated value: the rotation of rule R10 bit by bit, for an amount below the width. -/
theorem getLsbD_rotl {w : Nat} (v : BitVec w) {n i : Nat} (hn : n < w) (hi : i < w) :
    (rotl v n).getLsbD i = if i < n then v.getLsbD (w - n + i) else v.getLsbD (i - n) := by
  simp only [rotl, Nat.mod_eq_of_lt hn, BitVec.getLsbD_or, BitVec.getLsbD_shiftLeft, BitVec.getLsbD_ushiftRight, hi, decide_true,
    Bool.true_and]
  by_cases h : i < n
  · simp [h]
  · have h1 : w ≤ w - n + i := by omega
    simp [h, BitVec.getLsbD_of_ge v _ h1]

/-- The bits of the 80-bit register after the S-box step (rule R66). -/
theorem getLsbD_sboxTop80 (t : BitVec 80) (i : Nat) :
    (sboxTop80 t).getLsbD i =
      if i < 76 then (t.extractLsb' 0 76).getLsbD i else (sbox (t.extractLsb' 76 4)).getLsbD (i - 76) :=
  BitVec.getLsbD_append

/-- The bits of the 128-bit register after the S-box step (rule R69). -/
theorem getLsbD_sboxTop128 (t : BitVec 128) (i : Nat) :
    (sboxTop128 t).getLsbD i =
      if i < 120 then (t.extractLsb' 0 120).getLsbD i
      else if i - 120 < 4 then (sbox (t.extractLsb' 120 4)).getLsbD (i - 120)
      else (sbox (t.extractLsb' 124 4)).getLsbD (i - 120 - 4) := by
  have h1 := BitVec.getLsbD_append (x := sbox (t.extractLsb' 124 4) ++ sbox (t.extractLsb' 120 4)) (y := t.extractLsb' 0 120) (i := i)
  have h2 := BitVec.getLsbD_append (x := sbox (t.extractLsb' 124 4)) (y := sbox (t.extractLsb' 120 4)) (i := i - 120)
  rw [h2] at h1
  exact h1

@[simp] theorem keyRegister80_zero (key : Key80) : keyRegister80 key 0 = key := rfl
theorem keyRegister80_succ (key : Key80) (i : Nat) :
    keyRegister80 key (i + 1) = ksUpdate80 (keyRegister80 key i) (ctr i) := rfl
@[simp] theorem keyRegister128_zero (key : Key128) : keyRegister128 key 0 = key := rfl
theorem keyRegister128_succ (key : Key128) (i : Nat) :
    keyRegister128 key (i + 1) = ksUpdate128 (keyRegister128 key i) (ctr i) := rfl

@[simp] theorem getElem_generate80 (key : Key80) (i : Nat) (hi : i < 33) :
    (generate80 key)[i] = rkExtract80 (keyRegister80 key i) := by
  simp [generate80]

@[simp] theorem getElem_generate128 (key : Key128) (i : Nat) (hi : i < 33) :
    (generate128 key)[i] = rkExtract128 (keyRegister128 key i) := by
  simp [generate128]

theorem toNat_ctr (i : Nat) : (ctr i).toNat = (i + 1) % 32 := by
  simp [ctr, BitVec.toNat_ofNat]

end Sys2Proof.Machine
end

