-- ==== Sys2Proof/Laws/Operands.lean ====
section
/-! SUPPORT. What the operand ports' operations do, bit by bit. -/

namespace Sys2Proof.Machine

/-- Bit `q` of the 80-bit key in the key port (20_memory rule R36). -/
theorem getLsbD_keyIn80 (k : Key128) (q : Nat) : (keyIn80 k).getLsbD q = (decide (q < 80) && k.getLsbD q) := by
  simp [keyIn80, BitVec.getLsbD_extractLsb']

/-- An 80-bit key placed in the port is read back. -/
@[simp] theorem keyIn80_placeKey80 (k : Key80) : keyIn80 (placeKey80 k) = k := by
  apply BitVec.eq_of_getLsbD_eq
  intro i hi
  have h : i < 128 := by omega
  rw [getLsbD_keyIn80, placeKey80, BitVec.getLsbD_setWidth]
  simp only [hi, h, decide_true, Bool.true_and]

/-- Bit `q` of byte `j` of `n`: the first byte is the most significant one (rule R34). -/
theorem getLsbD_byteOf {w : Nat} (n : Nat) (v : BitVec w) (j q : Nat) :
    (byteOf n v j).getLsbD q = (decide (q < 8) && v.getLsbD (8 * (n - 1 - j) + q)) := by
  simp [byteOf, BitVec.getLsbD_extractLsb']

/-- Appending a byte shifts the value up by eight bits. -/
theorem ofBytes_append (w : Nat) (bs : List Byte) (b : Byte) :
    ofBytes w (bs ++ [b]) = (ofBytes w bs <<< 8) ||| b.setWidth w := by
  simp [ofBytes, List.foldl_append]

end Sys2Proof.Machine
end

