-- ==== Sys2Proof/Laws/PerInstr.lean ====
section
/-! SUPPORT. A family of statements about every instruction as syntax: its encoded command word matches its row of
spec/opcode_table.json. -/

namespace Sys2Proof.Laws.TableWord

/-- The row's "match" value; every row's "mask" is 0x00FF. -/
def rowMatch : Instr → CommandWord
  | .keygen _ _ => 0x0001#16
  | .enc _ => 0x0002#16
  | .dec _ => 0x0003#16
  | .release => 0x0004#16

/-- The encoded command word, masked as the row says, is the row's match value. -/
def Statement (i : Instr) : Prop := (encode i).cw &&& 0x00FF#16 = rowMatch i

theorem keygen (kw : BitVec 8) (keyIn : Key128) : Statement (.keygen kw keyIn) := by
  apply BitVec.eq_of_getLsbD_eq
  intro i hi
  have h : (0x00FF#16 : BitVec 16) = (BitVec.allOnes 8).setWidth 16 := rfl
  have h1 : (0x0001#16 : BitVec 16) = (0x01#8).setWidth 16 := rfl
  simp only [encode, rowMatch, h, h1, BitVec.getLsbD_and, getLsbD_mkCw, BitVec.getLsbD_setWidth, hi, decide_true,
    Bool.true_and, BitVec.getLsbD_allOnes]
  by_cases h8 : i < 8
  · simp [h8]
  · simp [h8, BitVec.getLsbD_of_ge (0x01#8) i (by omega)]

theorem enc (dataIn : Block) : Statement (.enc dataIn) := by
  show mkCw 0x00#8 0x02#8 &&& 0x00FF#16 = 0x0002#16
  decide

theorem dec (dataIn : Block) : Statement (.dec dataIn) := by
  show mkCw 0x00#8 0x03#8 &&& 0x00FF#16 = 0x0003#16
  decide

theorem release : Statement .release := by
  show mkCw 0x00#8 0x04#8 &&& 0x00FF#16 = 0x0004#16
  decide

end Sys2Proof.Laws.TableWord
end

