-- ==== Sys2Proof/Laws/RoundFunction.lean ====
section
/-! SUPPORT. What the shared loops of the round function do, bit by bit and nibble by nibble: one lemma per operation, for proofs
to cite instead of unfolding it. -/

namespace Sys2Proof.Machine

/-! ## Nibbles -/

/-- Bit `q` of a Block with nibble `j` replaced. -/
theorem getLsbD_setNibble (out : Block) (n : Nibble) {j q : Nat} (hq : q < 64) :
    (setNibble out j n).getLsbD q = if q / 4 = j then n.getLsbD (q % 4) else out.getLsbD q := by
  have h15 : (0xF#64 : BitVec 64) = (0xF#4 : BitVec 4).setWidth 64 := rfl
  have hall : (0xF#4 : BitVec 4) = BitVec.allOnes 4 := rfl
  simp only [setNibble, BitVec.getLsbD_or, BitVec.getLsbD_and, BitVec.getLsbD_not, BitVec.getLsbD_shiftLeft, h15, hall,
    BitVec.getLsbD_setWidth, BitVec.getLsbD_allOnes, hq, decide_true, Bool.true_and]
  by_cases h : q / 4 = j
  · have h1 : ¬ q < 4 * j := by omega
    have h2 : q - 4 * j < 64 := by omega
    have h3 : q - 4 * j < 4 := by omega
    have h4 : q - 4 * j = q % 4 := by omega
    rw [← h4]
    simp [h, h1, h2, h3]
  · by_cases h1 : q < 4 * j
    · simp [h, h1]
    · have h3 : ¬ q - 4 * j < 4 := by omega
      simp [h, h1, h3, BitVec.getLsbD_of_ge n _ (by omega : 4 ≤ q - 4 * j)]

/-- Bit `q` after the first `n` nibbles of the loop have been assigned. -/
theorem getLsbD_mapNibbles_range (f : Nibble → Nibble) (s : Block) (n : Nat) {q : Nat} (hq : q < 64) :
    ((List.range n).foldl (fun out j => setNibble out j (f (nibble s j))) 0#64).getLsbD q =
      if q / 4 < n then (f (nibble s (q / 4))).getLsbD (q % 4) else false := by
  induction n with
  | zero => simp
  | succ n ih =>
    rw [List.range_succ, List.foldl_append, List.foldl_cons, List.foldl_nil, getLsbD_setNibble _ _ hq]
    by_cases h : q / 4 = n
    · subst h; simp
    · rw [if_neg h, ih]
      by_cases h1 : q / 4 < n
      · simp [h1, Nat.lt_succ_of_lt h1]
      · have h2 : ¬ q / 4 < n + 1 := by omega
        simp [h1, h2]

/-- Bit `q` of the layer: the bit of `f` applied to the nibble that holds it. -/
theorem getLsbD_mapNibbles (f : Nibble → Nibble) (s : Block) {q : Nat} (hq : q < 64) :
    (mapNibbles f s).getLsbD q = (f (nibble s (q / 4))).getLsbD (q % 4) := by
  rw [mapNibbles, getLsbD_mapNibbles_range f s 16 hq, if_pos (by omega)]

/-- The layer acts on each nibble alone. -/
theorem nibble_mapNibbles (f : Nibble → Nibble) (s : Block) {j : Nat} (hj : j < 16) :
    nibble (mapNibbles f s) j = f (nibble s j) := by
  apply BitVec.eq_of_getLsbD_eq
  intro i hi
  have h1 : (4 * j + i) / 4 = j := by omega
  have h2 : (4 * j + i) % 4 = i := by omega
  rw [nibble, BitVec.getLsbD_extractLsb', getLsbD_mapNibbles f s (by omega), h1, h2]
  simp [hi]

/-- A Block is its sixteen nibbles. -/
theorem eq_of_nibble_eq {s t : Block} (h : ∀ j, j < 16 → nibble s j = nibble t j) : s = t := by
  apply BitVec.eq_of_getLsbD_eq
  intro q hq
  have h1 := congrArg (fun n => n.getLsbD (q % 4)) (h (q / 4) (by omega))
  simp only [nibble, BitVec.getLsbD_extractLsb'] at h1
  have h2 : 4 * (q / 4) + q % 4 = q := by omega
  have h3 : q % 4 < 4 := by omega
  simpa [h2, h3] using h1

/-- Two layers one after the other are the layer of the composition. -/
theorem mapNibbles_mapNibbles (f g : Nibble → Nibble) (s : Block) :
    mapNibbles f (mapNibbles g s) = mapNibbles (fun n => f (g n)) s := by
  apply eq_of_nibble_eq
  intro j hj
  rw [nibble_mapNibbles f _ hj, nibble_mapNibbles g _ hj, nibble_mapNibbles _ _ hj]

/-- A layer that changes no nibble changes nothing. -/
theorem mapNibbles_id {f : Nibble → Nibble} (h : ∀ n, f n = n) (s : Block) : mapNibbles f s = s := by
  apply eq_of_nibble_eq
  intro j hj
  rw [nibble_mapNibbles f s hj, h]

/-! ## Bits -/

/-- Bit `q` of a Block with bit `p` replaced. -/
theorem getLsbD_setBit (out : Block) (p : BitPos) (b : Bool) {q : Nat} (hq : q < 64) :
    (setBit out p b).getLsbD q = if q = p.toNat then b else out.getLsbD q := by
  have h1w : (1#64 : BitVec 64) = (BitVec.ofBool true).setWidth 64 := rfl
  simp only [setBit, BitVec.getLsbD_or, BitVec.getLsbD_and, BitVec.getLsbD_not, BitVec.getLsbD_shiftLeft, h1w,
    BitVec.getLsbD_setWidth, BitVec.getLsbD_ofBool, hq, decide_true, Bool.true_and]
  by_cases h : q = p.toNat
  · simp [h]
  · by_cases h1 : q < p.toNat
    · simp [h, h1]
    · have h2 : ¬ q - p.toNat = 0 := by omega
      simp [h, h1, h2]

/-- Where `inv` undoes `dest`, bit `dest i` of the moved Block is bit `i` of the source, once the loop has reached it. -/
theorem getLsbD_moveBits_range {dest inv : BitPos → BitPos} (hinv : ∀ i, inv (dest i) = i) (s : Block) (n : Nat)
    (hn : n ≤ 64) (i : BitPos) :
    ((List.range n).foldl (fun out k => setBit out (dest (BitVec.ofNat 6 k)) (s.getLsbD k)) 0#64).getLsbD (dest i).toNat =
      if i.toNat < n then s.getLsbD i.toNat else false := by
  induction n with
  | zero => simp
  | succ n ih =>
    rw [List.range_succ, List.foldl_append, List.foldl_cons, List.foldl_nil, getLsbD_setBit _ _ _ (dest i).isLt,
      ih (by omega)]
    by_cases h : i.toNat = n
    · have hi : BitVec.ofNat 6 n = i := by rw [← h]; simp
      simp [hi, h]
    · have hne : (dest i).toNat ≠ (dest (BitVec.ofNat 6 n)).toNat := by
        intro he
        have h2 : dest i = dest (BitVec.ofNat 6 n) := BitVec.eq_of_toNat_eq he
        have h3 : i = BitVec.ofNat 6 n := by rw [← hinv i, h2, hinv]
        apply h
        rw [h3, BitVec.toNat_ofNat, Nat.mod_eq_of_lt (by omega)]
      rw [if_neg hne]
      by_cases h1 : i.toNat < n
      · simp [h1, Nat.lt_succ_of_lt h1]
      · have h2 : ¬ i.toNat < n + 1 := by omega
        simp [h1, h2]

/-- Where `inv` undoes `dest`, bit `dest i` of the moved Block is bit `i` of the source. -/
theorem getLsbD_moveBits {dest inv : BitPos → BitPos} (hinv : ∀ i, inv (dest i) = i) (s : Block) (i : BitPos) :
    (moveBits dest s).getLsbD (dest i).toNat = s.getLsbD i.toNat := by
  rw [moveBits, getLsbD_moveBits_range hinv s 64 (by omega) i, if_pos i.isLt]

/-- Moving bits there and back. -/
theorem moveBits_moveBits {dest inv : BitPos → BitPos} (h1 : ∀ i, inv (dest i) = i) (h2 : ∀ i, dest (inv i) = i) (s : Block) :
    moveBits inv (moveBits dest s) = s := by
  apply BitVec.eq_of_getLsbD_eq
  intro q hq
  have hq' : (BitVec.ofNat 6 q).toNat = q := by rw [BitVec.toNat_ofNat, Nat.mod_eq_of_lt (by omega)]
  have h := getLsbD_moveBits h2 (moveBits dest s) (dest (BitVec.ofNat 6 q))
  rw [h1, hq', getLsbD_moveBits h1 s, hq'] at h
  exact h

/-! ## The tables -/

theorem sboxInv_sbox (n : Nibble) : sboxInv (sbox n) = n := (sbox_tables_valid n).2.1
theorem sbox_sboxInv (n : Nibble) : sbox (sboxInv n) = n := (sbox_tables_valid n).2.2.1
theorem sbox_ne_self (n : Nibble) : sbox n ≠ n := (sbox_tables_valid n).2.2.2
theorem permInv_perm (i : BitPos) : permInv (perm i) = i := (perm_tables_valid i).2.1
theorem perm_permInv (i : BitPos) : perm (permInv i) = i := (perm_tables_valid i).2.2

end Sys2Proof.Machine
end

