-- ==== Sys2Proof/Laws/State.lean ====
section
/-! SUPPORT. One lemma per field per update of the state, so that no later proof unfolds a record update. -/

namespace Sys2Proof.Machine

variable (s : State)

@[simp] theorem State.respond_engine (r : Response) : (s.respond r).engine = s.engine := rfl
@[simp] theorem State.respond_work (r : Response) : (s.respond r).work = .none := rfl
@[simp] theorem State.respond_response (r : Response) : (s.respond r).response = some r := rfl
@[simp] theorem State.respond_stream (r : Response) : (s.respond r).stream = s.stream := rfl
@[simp] theorem State.respond_returned (r : Response) : (s.respond r).returned = s.returned ++ [r] := rfl

@[simp] theorem State.complete_engine (d : Option Block) : (s.complete d).engine = s.engine := rfl
@[simp] theorem State.complete_work (d : Option Block) : (s.complete d).work = .none := rfl
@[simp] theorem State.complete_response (d : Option Block) : (s.complete d).response = some ⟨.ok, d⟩ := rfl
@[simp] theorem State.complete_stream (d : Option Block) : (s.complete d).stream = s.stream := rfl
@[simp] theorem State.complete_returned (d : Option Block) : (s.complete d).returned = s.returned ++ [⟨.ok, d⟩] := rfl

@[simp] theorem State.raise_engine (f : CommandFault) : (s.raise f).engine = s.engine := rfl
@[simp] theorem State.raise_work (f : CommandFault) : (s.raise f).work = .none := rfl
@[simp] theorem State.raise_response (f : CommandFault) : (s.raise f).response = some ⟨.fault f, none⟩ := rfl
@[simp] theorem State.raise_stream (f : CommandFault) : (s.raise f).stream = s.stream := rfl
@[simp] theorem State.raise_returned (f : CommandFault) : (s.raise f).returned = s.returned ++ [⟨.fault f, none⟩] := rfl

@[simp] theorem State.install_engine (w : KeyWidth) (k : Schedule) : (s.install w k).engine = some ⟨w, k⟩ := rfl
@[simp] theorem State.install_work (w : KeyWidth) (k : Schedule) : (s.install w k).work = s.work := rfl
@[simp] theorem State.install_response (w : KeyWidth) (k : Schedule) : (s.install w k).response = s.response := rfl
@[simp] theorem State.install_stream (w : KeyWidth) (k : Schedule) : (s.install w k).stream = s.stream := rfl
@[simp] theorem State.install_returned (w : KeyWidth) (k : Schedule) : (s.install w k).returned = s.returned := rfl

@[simp] theorem State.discard_engine : (s.discard).engine = none := rfl
@[simp] theorem State.discard_work : (s.discard).work = s.work := rfl
@[simp] theorem State.discard_response : (s.discard).response = s.response := rfl
@[simp] theorem State.discard_stream : (s.discard).stream = s.stream := rfl
@[simp] theorem State.discard_returned : (s.discard).returned = s.returned := rfl

@[simp] theorem State.applyReset_engine : (s.applyReset).engine = none := rfl
@[simp] theorem State.applyReset_work : (s.applyReset).work = .none := rfl
@[simp] theorem State.applyReset_response : (s.applyReset).response = none := rfl
@[simp] theorem State.applyReset_stream : (s.applyReset).stream = s.stream := rfl
@[simp] theorem State.applyReset_returned : (s.applyReset).returned = s.returned := rfl

@[simp] theorem State.present_engine (r : Request) : (s.present r).engine = s.engine := rfl
@[simp] theorem State.present_work (r : Request) : (s.present r).work = s.work := rfl
@[simp] theorem State.present_response (r : Request) : (s.present r).response = s.response := rfl
@[simp] theorem State.present_stream (r : Request) : (s.present r).stream = .request r :: s.stream := rfl
@[simp] theorem State.present_returned (r : Request) : (s.present r).returned = s.returned := rfl

@[simp] theorem State.reset_engine : State.reset.engine = none := rfl
@[simp] theorem State.reset_work : State.reset.work = .none := rfl
@[simp] theorem State.reset_response : State.reset.response = none := rfl
@[simp] theorem State.reset_stream : State.reset.stream = [] := rfl
@[simp] theorem State.reset_returned : State.reset.returned = [] := rfl

/-! The views of the registers. -/

@[simp] theorem State.valid_eq_isSome : s.valid = s.engine.isSome := rfl
@[simp] theorem State.kwsel_eq_map : s.kwsel = s.engine.map (·.kwsel) := rfl
@[simp] theorem State.rk_eq_map (i : Fin 33) : s.rk i = s.engine.map (·.rk[i]) := rfl

/-! Taking an event. -/

theorem State.takeEvent_nil (h : s.stream = []) : s.takeEvent = none := by
  simp [State.takeEvent, h]

theorem State.takeEvent_cons {e : HostEvent} {rest : List HostEvent} (h : s.stream = e :: rest) :
    s.takeEvent = some (e, { s with stream := rest }) := by
  simp [State.takeEvent, h]

end Sys2Proof.Machine
end

