-- ==== Sys2Proof/Laws/Step.lean ====
section
/-! SUPPORT. What each command, a served request and a step can do: every case, once. -/

namespace Sys2Proof.Machine

/-! ## The commands -/

theorem exec_keygen_80 (k : Key128) (s : State) :
    exec (.keygen 80#8 k) s = .next ((s.install .w80 (generate80 (keyIn80 k))).complete none) := rfl

theorem exec_keygen_128 (k : Key128) (s : State) :
    exec (.keygen 128#8 k) s = .next ((s.install .w128 (generate128 k)).complete none) := rfl

theorem exec_keygen_bad {kw : BitVec 8} (h1 : kw ≠ 80#8) (h2 : kw ≠ 128#8) (k : Key128) (s : State) :
    exec (.keygen kw k) s = .next (s.raise .invalidKeyWidth) := by
  simp [exec, execKeygen, h1, h2]

theorem exec_enc_none {s : State} (h : s.engine = none) (x : Block) :
    exec (.enc x) s = .next (s.raise .noSchedule) := by
  simp [exec, execEnc, h]

theorem exec_enc_some {s : State} {e : EngineInstance} (h : s.engine = some e) (x : Block) :
    exec (.enc x) s = .next (s.complete (some (encrypt x e.rk))) := by
  simp [exec, execEnc, h]

theorem exec_dec_none {s : State} (h : s.engine = none) (x : Block) :
    exec (.dec x) s = .next (s.raise .noSchedule) := by
  simp [exec, execDec, h]

theorem exec_dec_some {s : State} {e : EngineInstance} (h : s.engine = some e) (x : Block) :
    exec (.dec x) s = .next (s.complete (some (decrypt x e.rk))) := by
  simp [exec, execDec, h]

theorem exec_release (s : State) : exec .release s = .next (s.discard.complete none) := rfl

/-! ## A served request -/

theorem serve_of_decode {r : Request} {i : Instr} (h : decode r = .ok i) (s : State) : serve r s = exec i s := by
  simp [serve, h]

theorem serve_of_illegal {r : Request} {e : DecodeError} (h : decode r = .error e) (s : State) :
    serve r s = .next (s.raise .illegalCommand) := by
  cases e; simp [serve, h]

/-- Everything serving a request can do: there is always a next state, and it is one of these. -/
theorem serve_cases (r : Request) (s : State) :
    (decode r = .ok (.keygen 80#8 r.keyIn) ∧
      serve r s = .next ((s.install .w80 (generate80 (keyIn80 r.keyIn))).complete none)) ∨
    (decode r = .ok (.keygen 128#8 r.keyIn) ∧
      serve r s = .next ((s.install .w128 (generate128 r.keyIn)).complete none)) ∨
    (∃ kw, kw ≠ 80#8 ∧ kw ≠ 128#8 ∧ decode r = .ok (.keygen kw r.keyIn) ∧ serve r s = .next (s.raise .invalidKeyWidth)) ∨
    (decode r = .ok (.enc r.dataIn) ∧ s.engine = none ∧ serve r s = .next (s.raise .noSchedule)) ∨
    (∃ e, decode r = .ok (.enc r.dataIn) ∧ s.engine = some e ∧
      serve r s = .next (s.complete (some (encrypt r.dataIn e.rk)))) ∨
    (decode r = .ok (.dec r.dataIn) ∧ s.engine = none ∧ serve r s = .next (s.raise .noSchedule)) ∨
    (∃ e, decode r = .ok (.dec r.dataIn) ∧ s.engine = some e ∧
      serve r s = .next (s.complete (some (decrypt r.dataIn e.rk)))) ∨
    (decode r = .ok .release ∧ serve r s = .next (s.discard.complete none)) ∨
    (decode r = .error (.illegalCommand r.cw) ∧ serve r s = .next (s.raise .illegalCommand)) := by
  rcases decode_cases r with ⟨-, h⟩ | ⟨-, h⟩ | ⟨-, h⟩ | ⟨-, h⟩ | ⟨-, h⟩
  · by_cases h1 : kwField r.cw = 80#8
    · rw [h1] at h
      exact .inl ⟨h, by rw [serve_of_decode h, exec_keygen_80]⟩
    by_cases h2 : kwField r.cw = 128#8
    · rw [h2] at h
      exact .inr (.inl ⟨h, by rw [serve_of_decode h, exec_keygen_128]⟩)
    exact .inr (.inr (.inl ⟨_, h1, h2, h, by rw [serve_of_decode h, exec_keygen_bad h1 h2]⟩))
  · cases he : s.engine with
    | none => exact .inr (.inr (.inr (.inl ⟨h, rfl, by rw [serve_of_decode h, exec_enc_none he]⟩)))
    | some e => exact .inr (.inr (.inr (.inr (.inl ⟨e, h, rfl, by rw [serve_of_decode h, exec_enc_some he]⟩))))
  · cases he : s.engine with
    | none => exact .inr (.inr (.inr (.inr (.inr (.inl ⟨h, rfl, by rw [serve_of_decode h, exec_dec_none he]⟩)))))
    | some e => exact .inr (.inr (.inr (.inr (.inr (.inr (.inl ⟨e, h, rfl, by rw [serve_of_decode h, exec_dec_some he]⟩))))))
  · exact .inr (.inr (.inr (.inr (.inr (.inr (.inr (.inl ⟨h, by rw [serve_of_decode h, exec_release]⟩)))))))
  · exact .inr (.inr (.inr (.inr (.inr (.inr (.inr (.inr ⟨h, serve_of_illegal h s⟩)))))))

/-! ## A step -/

theorem step_idle {s : State} (h : s.stream = []) : step s = .next s := by
  simp [step, State.takeEvent_nil s h]

theorem step_event {s : State} {e : HostEvent} {rest : List HostEvent} (h : s.stream = e :: rest) :
    step s = serveEvent e { s with stream := rest } := by
  simp [step, State.takeEvent_cons s h]

/-- Everything a step can do. -/
theorem step_cases (s : State) :
    (s.stream = [] ∧ step s = .next s) ∨
    (∃ r rest, s.stream = .request r :: rest ∧ step s = serve r { s with stream := rest }) ∨
    (∃ e rest, s.stream = e :: rest ∧ (e = .reset ∨ ∃ r, e = .resetDuring r) ∧
      step s = .next { State.reset with stream := rest, returned := s.returned }) := by
  cases h : s.stream with
  | nil => exact .inl ⟨rfl, step_idle h⟩
  | cons e rest =>
    cases e with
    | request r => exact .inr (.inl ⟨r, rest, rfl, step_event h⟩)
    | reset => exact .inr (.inr ⟨.reset, rest, rfl, .inl rfl, step_event h⟩)
    | resetDuring r => exact .inr (.inr ⟨.resetDuring r, rest, rfl, .inr ⟨r, rfl⟩, step_event h⟩)

end Sys2Proof.Machine
end

