-- ==== Sys2Proof/Laws/Safety.lean ====
section
/-! SUPPORT. The observables of Safety.lean in terms of what serving answers. -/

namespace Sys2Proof.Machine

theorem after_of_serve {r : Request} {s t : State} (h : serve r s = .next t) : after r s = t := by
  simp [after, h]

theorem answer_of_serve {r : Request} {s t : State} (h : serve r s = .next t) : answer r s = t.response := by
  simp [answer, h]

/-- Serving a request always ends with a next state, which `after` and `answer` describe. -/
theorem serve_after (r : Request) (s : State) : serve r s = .next (after r s) := by
  rcases serve_cases r s with ⟨-, h⟩ | ⟨-, h⟩ | ⟨_, -, -, -, h⟩ | ⟨-, -, h⟩ | ⟨_, -, -, h⟩ | ⟨-, -, h⟩ | ⟨_, -, -, h⟩ |
    ⟨-, h⟩ | ⟨-, h⟩ <;> rw [after_of_serve h, h]

theorem answer_eq_response (r : Request) (s : State) : answer r s = (after r s).response :=
  answer_of_serve (serve_after r s)

end Sys2Proof.Machine
end

