-- ==== Sys2Proof/Tests/Slice0.lean ====
section
/-! SUPPORT. The model's own tests. Expected values are those of spec/95_test_vectors.md (V<n>, P<n>) and of the worked examples of
the rules, never the model's own answers. The second half shows, for every statement with hypotheses, a concrete state and operands
that meet them together. -/

namespace Sys2Proof.Tests

open Sys2Proof.Machine

/-! ## WellFormed: one ill-formed term for the one check, and its neighbours (30_encoding rule R59) -/

/-- P3 line 6: an 80-bit KEYGEN with upper key bits cannot be written in the assembler. -/
theorem test_wellFormed_refuses_upper_bits :
    Instr.wellFormed (.keygen 80#8 0xDEADBEEFCAFEFFFFFFFFFFFFFFFFFFFF#128) = false := by decide

theorem test_wellFormed_accepts_right_aligned :
    Instr.wellFormed (.keygen 80#8 0x000000000000FFFFFFFFFFFFFFFFFFFF#128) = true ∧
      Instr.wellFormed (.keygen 128#8 0xFFFFFFFFFFFFFFFFFFFFFFFFFFFFFFFF#128) = true ∧
      Instr.wellFormed (.enc 0#64) = true ∧ Instr.wellFormed (.dec 0#64) = true ∧ Instr.wellFormed .release = true := by decide

/-! ## Decoding: words written bit by bit, KW in bits 15..8 and OP in bits 7..0 (rule R48, V50 to V55) -/

theorem test_decode_keygen80 :
    decode { cw := 0b0101000000000001#16, keyIn := 7#128, dataIn := 9#64 } = .ok (.keygen 80#8 7#128) := by decide

theorem test_decode_keygen128 :
    decode { cw := 0b1000000000000001#16, keyIn := 7#128, dataIn := 9#64 } = .ok (.keygen 128#8 7#128) := by decide

/-- V50: every width decodes; 96 faults only when executed. -/
theorem test_decode_keygen96 :
    decode { cw := 0b0110000000000001#16, keyIn := 7#128, dataIn := 9#64 } = .ok (.keygen 96#8 7#128) := by decide

/-- V51: KW is ignored. -/
theorem test_decode_enc :
    decode { cw := 0b0000000000000010#16, keyIn := 7#128, dataIn := 9#64 } = .ok (.enc 9#64) ∧
      decode { cw := 0b1111111100000010#16, keyIn := 7#128, dataIn := 9#64 } = .ok (.enc 9#64) := by decide

theorem test_decode_dec :
    decode { cw := 0b0000000000000011#16, keyIn := 7#128, dataIn := 9#64 } = .ok (.dec 9#64) ∧
      decode { cw := 0b0101000000000011#16, keyIn := 7#128, dataIn := 9#64 } = .ok (.dec 9#64) := by decide

theorem test_decode_release :
    decode { cw := 0b0000000000000100#16, keyIn := 7#128, dataIn := 9#64 } = .ok .release ∧
      decode { cw := 0b1111111100000100#16, keyIn := 7#128, dataIn := 9#64 } = .ok .release := by decide

/-- V52: illegal words, the opcode in the wrong byte among them. -/
theorem test_decode_illegal :
    decode { cw := 0b0000000000000000#16, keyIn := 0#128, dataIn := 0#64 } = .error (.illegalCommand 0x0000#16) ∧
      decode { cw := 0b0000000000000101#16, keyIn := 0#128, dataIn := 0#64 } = .error (.illegalCommand 0x0005#16) ∧
      decode { cw := 0b0000001000000000#16, keyIn := 0#128, dataIn := 0#64 } = .error (.illegalCommand 0x0200#16) ∧
      decode { cw := 0b1111111111111111#16, keyIn := 0#128, dataIn := 0#64 } = .error (.illegalCommand 0xFFFF#16) := by decide

/-- Rule R59: the request of an assembler line. -/
theorem test_encode_keygen80 :
    encode (.keygen 80#8 0x00112233445566778899#128) =
      { cw := 0x5001#16, keyIn := 0x00000000000000112233445566778899#128, dataIn := 0#64 } := by decide

/-- The record as one number: the command word lowest, then the operands. -/
theorem test_request_ofBits :
    Request.ofBits 0x9000000000000000000000000000000075001 =
      { cw := 0x5001#16, keyIn := 7#128, dataIn := 9#64 } := by decide

/-- R61 and V36: the bytes of the key of V9 as LP's `new_engine` takes them. -/
theorem test_newEngine80_bytes :
    newEngine80 #v[0x00, 0x11, 0x22, 0x33, 0x44, 0x55, 0x66, 0x77, 0x88, 0x99] =
      { cw := 0x5001#16, keyIn := 0x00000000000000112233445566778899#128, dataIn := 0#64 } := by decide +kernel

/-- V36: the bytes of the ciphertext of V1. -/
theorem test_block_bytes :
    blockBytes 0x5579C1387B228445#64 = #v[0x55, 0x79, 0xC1, 0x38, 0x7B, 0x22, 0x84, 0x45] ∧
      blockOfBytes #v[0x55, 0x79, 0xC1, 0x38, 0x7B, 0x22, 0x84, 0x45] = 0x5579C1387B228445#64 := by decide +kernel

/-! ## Round function units (V31 to V35) -/

theorem test_sboxLayer_V31 :
    sboxLayer 0x0123456789ABCDEF#64 = 0xC56B90AD3EF84712#64 ∧ sboxLayer 0x8000000000000001#64 = 0x3CCCCCCCCCCCCCC5#64 ∧
      invSboxLayer 0x0123456789ABCDEF#64 = 0x5EF8C12DB463079A#64 := by decide +kernel

/-- V32, row i = 1, tells the table's two directions apart. -/
theorem test_pLayer_V32 :
    pLayer 0x0000000000000002#64 = 0x0000000000010000#64 ∧ pLayer 0x0000000000010000#64 = 0x0000000000000010#64 ∧
      invPLayer 0x0000000000000002#64 = 0x0000000000000010#64 ∧ pLayer 0xF000000000000000#64 = 0x8000800080008000#64 ∧
      pLayer 0xFEDCBA9876543210#64 = 0xFF00F0F0CCCCAAAA#64 := by decide +kernel

theorem test_applyRound_V34 :
    applyRound 0x0123456789ABCDEF#64 0x0011223344556677#64 = 0xAD0ED4CA386B6559#64 ∧
      applyRound 0x0000000000000000#64 0xC000000000000000#64 = 0x7FFFFFFF00000000#64 ∧
      invRound 0x0ED93687A74C659A#64 0xFFFFFFFFFFFFFFFF#64 = 0x0123456789ABCDEF#64 := by decide +kernel

/-! ## Key schedule (V20 to V27) -/

theorem test_ksUpdate80_V26 :
    rotl 0x00112233445566778899#80 61 = 0xF11320022446688AACCE#80 ∧
      ksUpdate80 0x00112233445566778899#80 1#5 = 0x211320022446688A2CCE#80 ∧
      ksUpdate80 0#80 31#5 = 0xC00000000000000F8000#80 ∧ ksUpdate80 0#80 0#5 = 0xC0000000000000000000#80 := by decide +kernel

theorem test_ksUpdate128_V26 :
    ksUpdate128 0x0123456789ABCDEFFEDCBA9876543210#128 1#5 = 0x22DB97530ECA8642402468ACF13579BD#128 ∧
      ksUpdate128 0#128 31#5 = 0xCC00000000000007C000000000000000#128 ∧
      ksUpdate128 1#128 1#5 = 0xCC000000000000006000000000000000#128 := by decide +kernel

/-- V24 and V27: the schedule of V9, its last register with the counter value 0. -/
theorem test_generate80_V24 :
    (generate80 0x00112233445566778899#80)[1] = 0x211320022446688A#64 ∧
      (generate80 0x00112233445566778899#80)[31] = 0xD0C84ADC4FBB6A03#64 ∧
      (generate80 0x00112233445566778899#80)[32] = 0xDA835A19095B89F7#64 := by decide +kernel

/-- V25 and V27: the schedule of V10. -/
theorem test_generate128_V25 :
    (generate128 0x0123456789ABCDEFFEDCBA9876543210#128)[2] = 0x93048D159E26AF37#64 ∧
      (generate128 0x0123456789ABCDEFFEDCBA9876543210#128)[31] = 0x82C8A1D0ACC4C8CD#64 ∧
      (generate128 0x0123456789ABCDEFFEDCBA9876543210#128)[32] = 0xFC0AF48F929B851F#64 := by decide +kernel

/-! ## The block driver (V1 to V19) -/

theorem test_encrypt_V4 :
    encrypt 0xFFFFFFFFFFFFFFFF#64 (generate80 0xFFFFFFFFFFFFFFFFFFFF#80) = 0x3333DCD3213210D2#64 := by decide +kernel

theorem test_encrypt_V10 :
    encrypt 0x0123456789ABCDEF#64 (generate128 0x0123456789ABCDEFFEDCBA9876543210#128) = 0x1D1CCBC0B5A36199#64 := by decide +kernel

theorem test_decrypt_V18 :
    decrypt 0x0123456789ABCDEF#64 (generate80 0x00112233445566778899#80) = 0x491D6B8B82B95DFD#64 := by decide +kernel

/-! ## Commands: one step each -/

/-- The engine with the all-zero 80-bit key loaded, and the request `r` presented. -/
def loaded (r : Request) : State :=
  { State.reset with engine := some { kwsel := .w80, rk := generate80 0#80 }, stream := [.request r] }

/-- The engine after reset, and the request `r` presented. -/
def fresh (r : Request) : State := State.reset.present r

/-- The response ports after one step. -/
def response (s : State) : Option Response :=
  match step s with
  | .next t => t.response
  | _ => none

/-- `VALID` after one step. -/
def validAfter (s : State) : Option Bool :=
  match step s with
  | .next t => some t.valid
  | _ => none

/-- `RK[1]` after one step. -/
def rk1After (s : State) : Option RoundKey :=
  match step s with
  | .next t => t.rk 1
  | _ => none

/-- V51 and V20. -/
theorem test_keygen_installs :
    rk1After (fresh ⟨0x5001#16, 0#128, 0#64⟩) = some 0xC000000000000000#64 ∧
      response (fresh ⟨0x5001#16, 0#128, 0#64⟩) = some ⟨.ok, none⟩ := by decide +kernel

/-- P2 line 6: LP's 64-bit rejection case as a failed re-key keeps the schedule. -/
theorem test_keygen_failed_rekey :
    rk1After (loaded ⟨0x4001#16, 0x0000000000000000FFFFFFFFFFFFFFFF#128, 0#64⟩) = some 0xC000000000000000#64 ∧
      response (loaded ⟨0x4001#16, 0x0000000000000000FFFFFFFFFFFFFFFF#128, 0#64⟩) = some ⟨.fault .invalidKeyWidth, none⟩ := by
  decide +kernel

/-- P1 line 2, the source's vector, through the whole step. -/
theorem test_enc_V1 :
    response (loaded ⟨0x0002#16, 0#128, 0x0000000000000000#64⟩) = some ⟨.ok, some 0x5579C1387B228445#64⟩ := by decide +kernel

/-- V54: NoSchedule, not InvalidKeyWidth. -/
theorem test_enc_no_schedule :
    response (fresh ⟨0x6002#16, 0#128, 0#64⟩) = some ⟨.fault .noSchedule, none⟩ := by decide +kernel

/-- V17: DEC of a block that no ENC produced. -/
theorem test_dec_V17 :
    response (loaded ⟨0x0003#16, 0#128, 0x0000000000000000#64⟩) = some ⟨.ok, some 0xEF506CB600C2E95F#64⟩ := by decide +kernel

/-- V53. -/
theorem test_dec_no_schedule :
    response (fresh ⟨0xFF03#16, 0#128, 0#64⟩) = some ⟨.fault .noSchedule, none⟩ := by decide +kernel

/-- P2 line 11. -/
theorem test_release_discards :
    validAfter (loaded ⟨0x0004#16, 0#128, 0#64⟩) = some false ∧
      response (loaded ⟨0x0004#16, 0#128, 0#64⟩) = some ⟨.ok, none⟩ := by decide +kernel

/-- P2 line 13: RELEASE with nothing to release is OK. -/
theorem test_release_twice :
    response (fresh ⟨0x0004#16, 0#128, 0#64⟩) = some ⟨.ok, none⟩ := by decide +kernel

/-- P2 line 9 and V54: IllegalCommand wins, the schedule stays. -/
theorem test_illegal_keeps_schedule :
    response (loaded ⟨0x5005#16, 0#128, 0#64⟩) = some ⟨.fault .illegalCommand, none⟩ ∧
      validAfter (loaded ⟨0x5005#16, 0#128, 0#64⟩) = some true := by decide +kernel

/-- P5: the schedule does not survive reset, and a reset produces no response. -/
theorem test_reset_event :
    validAfter { loaded ⟨0x0003#16, 0#128, 0#64⟩ with stream := [.reset] } = some false ∧
      response { loaded ⟨0x0003#16, 0#128, 0#64⟩ with stream := [.resetDuring ⟨0x0003#16, 0#128, 0#64⟩] } = none := by
  decide +kernel

/-- A table word placed by `withFetchWord` is what the very next step runs. -/
theorem test_withFetchWord_runs :
    response (State.reset.withFetchWord 16 0x0004) = some ⟨.ok, none⟩ ∧ decodeTableWord 16 0x0004 = some .release := by
  decide +kernel

/-! ## Witnesses: the hypotheses of the statements can be met, each clause at a boundary -/

/-- An engine instance for the witnesses. -/
def someEngine : EngineInstance := { kwsel := .w80, rk := generate80 0#80 }

/-- A state with a schedule. -/
def withEngine : State := { State.reset with engine := some someEngine }

theorem witness_ResetEventStep :
    ({ withEngine with stream := [.reset] } : State).stream = .reset :: [] ∧
      ({ withEngine with stream := [.resetDuring ⟨2#16, 0#128, 0#64⟩] } : State).stream =
        .resetDuring ⟨2#16, 0#128, 0#64⟩ :: [] := ⟨rfl, rfl⟩

theorem witness_DecoderIsTotalAndIllegalFaults :
    opField 0x5001#16 = 0x01#8 ∧ opField 0xFF02#16 = 0x02#8 ∧ opField 0x0003#16 = 0x03#8 ∧ opField 0x0004#16 = 0x04#8 ∧
      opField 0x0005#16 = 0x05#8 ∧ opField 0x0100#16 = 0x00#8 := by decide

theorem witness_IllegalCommandAnswer :
    (opField 0x5000#16).toNat = 0 ∧ 5 ≤ (opField 0x0005#16).toNat ∧ 5 ≤ (opField 0xFFFF#16).toNat := by decide

theorem witness_EncodeOfDecode :
    decode ⟨0x8001#16, 3#128, 0#64⟩ = .ok (.keygen 128#8 3#128) ∧ decode ⟨0xFF02#16, 3#128, 5#64⟩ = .ok (.enc 5#64) ∧
      decode ⟨0x0003#16, 3#128, 5#64⟩ = .ok (.dec 5#64) ∧ decode ⟨0x0104#16, 3#128, 5#64⟩ = .ok .release ∧
      isBlockCommand ⟨0xFF02#16, 3#128, 5#64⟩ ∧ isBlockCommand ⟨0x0003#16, 3#128, 5#64⟩ := by decide

/-- Two requests with one command word whose ignored operands differ, for each clause. -/
theorem witness_IgnoredOperandsDoNotMatter :
    (opField 0x5001#16 = 0x01#8 ∧ kwField 0x5001#16 = 80#8 ∧
      (0x0000000000000000FFFFFFFFFFFFFFFF#128).extractLsb' 0 80 = (0x8000000000000000FFFFFFFFFFFFFFFF#128).extractLsb' 0 80) ∧
    (opField 0x8001#16 = 0x01#8 ∧ kwField 0x8001#16 = 128#8) ∧
    (isBlockCommand ⟨0x0002#16, 1#128, 5#64⟩ ∧ isBlockCommand ⟨0x0003#16, 2#128, 5#64⟩) ∧ opField 0x0004#16 = 0x04#8 := by decide

theorem witness_KeyWidthFieldUse :
    (0x02#8 : BitVec 8) ≠ 0x01#8 ∧ (0x05#8 : BitVec 8) ≠ 0x01#8 ∧ (0x50#8).toNat = 80 ∧ (0x80#8).toNat = 128 := by decide

theorem witness_InvalidKeyWidthAnswer :
    ¬ isKeyWidth 0#8 ∧ ¬ isKeyWidth 79#8 ∧ ¬ isKeyWidth 81#8 ∧ ¬ isKeyWidth 127#8 ∧ ¬ isKeyWidth 129#8 ∧ ¬ isKeyWidth 255#8 := by
  decide

theorem witness_KeygenInstallsSchedule : ¬ isKeyWidth 64#8 ∧ ¬ isKeyWidth 96#8 := by decide

/-- Keys that differ in ignored bits only, for 80 bits; one key, for 128 bits. -/
theorem witness_KeygenIsDeterministic :
    isKeyWidth 80#8 ∧ (0x00#128).extractLsb' 0 80 = (0x800000000000000000000000000000#128 <<< 8).extractLsb' 0 80 ∧
      isKeyWidth 128#8 ∧ (128#8 : BitVec 8) ≠ 80#8 := by decide

theorem witness_KeygenCornerCases :
    isKeyWidth 128#8 ∧ withEngine.engine = some someEngine ∧ ¬ isKeyWidth 127#8 ∧ State.reset.valid = false ∧
      (129#8 : BitVec 8).toNat ∈ [0, 64, 96, 79, 81, 127, 129, 255] :=
  ⟨by decide, rfl, by decide, rfl, by decide⟩

theorem witness_ReleaseDiscardsSchedule : opField 0xFF04#16 = 0x04#8 ∧ State.reset.valid = false := by decide

theorem witness_EncAnswersCiphertext : withEngine.engine = some someEngine ∧ State.reset.valid = false := ⟨rfl, rfl⟩

theorem witness_DecAnswersPlaintext : withEngine.engine = some someEngine ∧ State.reset.valid = false := ⟨rfl, rfl⟩

theorem witness_NoScheduleAnswer :
    isBlockCommand ⟨0xFF03#16, 0#128, 0#64⟩ ∧ State.reset.valid = false ∧
      exec .release withEngine = .next (withEngine.discard.complete none) ∧ ¬ isKeyWidth 96#8 ∧
      exec (.keygen 96#8 0#128) State.reset = .next (State.reset.raise .invalidKeyWidth) :=
  ⟨by decide, rfl, rfl, by decide, rfl⟩

/-- A faulting request after a KEYGEN: the all-zero word. -/
theorem witness_FaultingRequestIsDeletable :
    (answer ⟨0x0000#16, 0#128, 0#64⟩ (afterAll [⟨0x5001#16, 0#128, 0#64⟩] State.reset)).map (·.status) =
      some (.fault .illegalCommand) := by decide +kernel

theorem witness_CommandFrames :
    exec (.enc 0#64) State.reset = .next (State.reset.raise .noSchedule) ∧
      exec (.dec 0#64) State.reset = .next (State.reset.raise .noSchedule) ∧
      exec .release State.reset = .next (State.reset.discard.complete none) ∧ ¬ isKeyWidth 81#8 ∧
      exec (.keygen 81#8 0#128) withEngine = .next (withEngine.raise .invalidKeyWidth) :=
  ⟨rfl, rfl, rfl, by decide, rfl⟩

/-- A request that changes the schedule: RELEASE with a schedule loaded. -/
theorem witness_ScheduleIsFrozen :
    serve ⟨0x0004#16, 0#128, 0#64⟩ withEngine = .next (withEngine.discard.complete none) ∧
      (withEngine.discard.complete none).engine ≠ withEngine.engine ∧
      isBlockCommand ⟨0x0002#16, 0#128, 0#64⟩ ∧ opField 0x5001#16 = 0x01#8 ∧ isKeyWidth (kwField 0x5001#16) :=
  ⟨rfl, fun h => (nomatch h), by decide, by decide, by decide⟩

/-- A step that changes the schedule: RELEASE with a schedule loaded. -/
theorem witness_OnlyNamedEventsChangeSchedule :
    step (loaded ⟨0x0004#16, 0#128, 0#64⟩) = .next ({ loaded ⟨0x0004#16, 0#128, 0#64⟩ with stream := [] }.discard.complete none) ∧
      ({ loaded ⟨0x0004#16, 0#128, 0#64⟩ with stream := [] }.discard.complete none).engine ≠
        (loaded ⟨0x0004#16, 0#128, 0#64⟩).engine :=
  ⟨rfl, fun h => (nomatch h)⟩

/-- A state with a schedule that meets the invariant, and a step from it. -/
theorem witness_StepKeepsScheduleDerived :
    withEngine.Inv ∧ step withEngine = .next withEngine :=
  ⟨⟨by rintro e ⟨⟩; exact ⟨0#80, rfl⟩, rfl, fun _ h => (nomatch h), fun _ h => (nomatch h)⟩, rfl⟩

theorem witness_MachineNeverStops : withEngine.stream = [] := rfl

theorem witness_StepRunsDecodedCommand :
    (fresh ⟨0x0002#16, 0#128, 5#64⟩).stream = .request ⟨0x0002#16, 0#128, 5#64⟩ :: [] ∧
      decode ⟨0x0002#16, 0#128, 5#64⟩ = .ok (.enc 5#64) := by decide

/-- Working registers that hold values, and an event to take. -/
theorem witness_WorkingRegistersAreEmptied :
    ({ fresh ⟨0x0000#16, 0#128, 0#64⟩ with work := Working.startEnc 1#64 } : State).stream ≠ [] ∧
      step { fresh ⟨0x0000#16, 0#128, 0#64⟩ with work := Working.startEnc 1#64 } =
        .next (State.reset.raise .illegalCommand) := ⟨fun h => (nomatch h), rfl⟩

theorem witness_BlockCommandsCommute :
    (∀ r ∈ [(⟨0x0002#16, 0#128, 1#64⟩ : Request), ⟨0xFF03#16, 0#128, 2#64⟩], isBlockCommand r) ∧
      [(⟨0x0002#16, 0#128, 1#64⟩ : Request), ⟨0xFF03#16, 0#128, 2#64⟩].Perm
        [⟨0xFF03#16, 0#128, 2#64⟩, ⟨0x0002#16, 0#128, 1#64⟩] := by decide

/-- Two different states with one engine. -/
theorem witness_ResultsDependOnEngineAndRequest :
    withEngine.engine = ({ withEngine with work := Working.startEnc 1#64, stream := [.reset] } : State).engine := rfl

theorem witness_RunServesRequestsInOrder :
    (fresh ⟨0x5001#16, 0#128, 0#64⟩).stream = [(⟨0x5001#16, 0#128, 0#64⟩ : Request)].map HostEvent.request := rfl

/-- Keys that differ in ignored bits have one 80-bit schedule. -/
theorem witness_KeyIsNotRetained :
    generate80 ((1#128).extractLsb' 0 80) = generate80 ((0x80000000000000000000000000000001#128).extractLsb' 0 80) ∧
      generate128 1#128 = generate128 1#128 ∧ ¬ isKeyWidth 0#8 ∧
      exec (.keygen 0#8 1#128) State.reset = .next (State.reset.raise .invalidKeyWidth) :=
  ⟨congrArg generate80 (by decide), rfl, by decide, rfl⟩

/-- First and last nibble. -/
theorem witness_SubstitutionIsNibblewise : 0 < 16 ∧ 15 < 16 := by decide

theorem witness_InverseSubstitutionUndoes : 0 < 16 ∧ 15 < 16 := by decide

/-- The bits that stay. -/
theorem witness_PermutationMovesBits : (0 ∈ [0, 21, 42, 63]) ∧ (63 ∈ [0, 21, 42, 63]) := by decide

/-- The amount of both widths, first and last bit. -/
theorem witness_RotationBySlices : (61 < 80 ∧ 0 < 80) ∧ (61 < 80 ∧ 79 < 80) ∧ (61 < 128 ∧ 127 < 128) := by decide

/-- Bits on both sides of the counter's place. -/
theorem witness_KeyUpdateOf80Bits : (14 < 15 ∨ 19 < 14) ∧ (20 < 15 ∨ 19 < 20) := by decide

theorem witness_KeyUpdateOf128Bits : (61 < 62 ∨ 66 < 61) ∧ (67 < 62 ∨ 66 < 67) := by decide

/-- First and last index of each loop. -/
theorem witness_ScheduleOf80BitKeys : (0 < 32 ∧ 31 < 32) ∧ 0 < 33 ∧ 32 < 33 := by decide

theorem witness_ScheduleOf128BitKeys : (0 < 32 ∧ 31 < 32) ∧ 0 < 33 ∧ 32 < 33 := by decide

theorem witness_EncryptionRounds : 0 < 31 ∧ 30 < 31 := by decide

theorem witness_DecryptionRounds : 0 < 31 ∧ 30 < 31 := by decide

/-- First and last byte of a key. -/
theorem witness_KeyPortLayout : (0 < 10 ∧ 9 < 10) ∧ 0 < 16 ∧ 15 < 16 := by decide

theorem witness_LastCounterIsZeroAndUnobservable :
    30 < 31 ∧ withEngine.engine = some someEngine ∧ Instr.enc 1#64 = .enc 1#64 ∧ Instr.dec 1#64 = .dec 1#64 :=
  ⟨by decide, rfl, rfl, rfl⟩

theorem witness_ScheduleDeterminesKey : generate80 1#80 = generate80 1#80 ∧ generate128 1#128 = generate128 1#128 := ⟨rfl, rfl⟩

theorem witness_DecryptUndoesEncrypt : withEngine.valid = true := rfl

end Sys2Proof.Tests
end

section
/-! The outcome of a command (00_scope rule R6). -/

namespace Sys2Proof.Machine

/-- Raising a fault changes nothing but that its response was given. -/
theorem State.raise_eq_answered (s : State) (f : CommandFault) :
    s.raise f = s.answered { status := .fault f, dataOut := none } := rfl

/-- The two outcomes of rule R6. A fault is raised in the state the request was served in, so it keeps that state; a completion
is in a state the command may have changed. -/
theorem serve_completes_or_raises (r : Request) (s : State) :
    (∃ (u : State) (d : Option Block), serve r s = .next (u.complete d)) ∨
      ∃ f : CommandFault, serve r s = .next (s.raise f) := by
  rcases serve_cases r s with ⟨-, keygen80⟩ | ⟨-, keygen128⟩ | ⟨_, -, -, -, keygenBad⟩ | ⟨-, -, encFault⟩ | ⟨_, -, -, encOk⟩ |
    ⟨-, -, decFault⟩ | ⟨_, -, -, decOk⟩ | ⟨-, release⟩ | ⟨-, illegal⟩
  · exact .inl ⟨_, _, keygen80⟩
  · exact .inl ⟨_, _, keygen128⟩
  · exact .inr ⟨_, keygenBad⟩
  · exact .inr ⟨_, encFault⟩
  · exact .inl ⟨_, _, encOk⟩
  · exact .inr ⟨_, decFault⟩
  · exact .inl ⟨_, _, decOk⟩
  · exact .inl ⟨_, _, release⟩
  · exact .inr ⟨_, illegal⟩

/-- Settles O23: serving a request completes with OK or raises a fault in the state it was served in. -/
theorem commandsEndOkOrFault : Obligations.CommandsEndOkOrFault := by
  intro r s
  rcases serve_completes_or_raises r s with ⟨u, d, completes⟩ | ⟨f, raises⟩
  · exact ⟨_, _, completes, u.complete_response d, .inl rfl⟩
  · exact ⟨_, _, raises, s.raise_response f, .inr ⟨f, rfl, s.raise_eq_answered f⟩⟩

end Sys2Proof.Machine
end

section
/-! The engine's own state: what may write the schedule, what is left of a key, and reset (10_state rules R18, R22 and R25). -/

namespace Sys2Proof

theorem decode_eq_keygen {r : Request} {kw : BitVec 8} {k : Key128} (h : decode r = .ok (.keygen kw k)) :
    opField r.cw = 0x01#8 ∧ kwField r.cw = kw := by
  rcases decode_cases r with ⟨op, keygen⟩ | ⟨-, enc⟩ | ⟨-, dec⟩ | ⟨-, release⟩ | ⟨-, illegal⟩
  · rw [keygen] at h
    cases h
    exact ⟨op, rfl⟩
  · simp [enc] at h
  · simp [dec] at h
  · simp [release] at h
  · simp [illegal] at h

theorem decode_eq_release {r : Request} (h : decode r = .ok .release) : opField r.cw = 0x04#8 := by
  rcases decode_cases r with ⟨-, keygen⟩ | ⟨-, enc⟩ | ⟨-, dec⟩ | ⟨op, -⟩ | ⟨-, illegal⟩
  · simp [keygen] at h
  · simp [enc] at h
  · simp [dec] at h
  · exact op
  · simp [illegal] at h

end Sys2Proof

namespace Sys2Proof.Machine

/-! ## Who writes the schedule -/

/-- The requests that may write the schedule (rule R18): a RELEASE, and a KEYGEN of a supported width. -/
abbrev writesSchedule (r : Request) : Prop :=
  opField r.cw = 0x04#8 ∨ opField r.cw = 0x01#8 ∧ isKeyWidth (kwField r.cw)

theorem after_engine_of_not_writesSchedule {r : Request} (h : ¬ writesSchedule r) (s : State) :
    (after r s).engine = s.engine := by
  rcases serve_cases r s with ⟨decoded, -⟩ | ⟨decoded, -⟩ | ⟨_, -, -, -, keygenBad⟩ | ⟨-, -, encFault⟩ | ⟨_, -, -, encOk⟩ |
    ⟨-, -, decFault⟩ | ⟨_, -, -, decOk⟩ | ⟨decoded, -⟩ | ⟨-, illegal⟩
  · obtain ⟨op, kw⟩ := decode_eq_keygen decoded
    exact absurd (.inr ⟨op, .inl kw⟩) h
  · obtain ⟨op, kw⟩ := decode_eq_keygen decoded
    exact absurd (.inr ⟨op, .inr kw⟩) h
  · rw [after_of_serve keygenBad, State.raise_engine]
  · rw [after_of_serve encFault, State.raise_engine]
  · rw [after_of_serve encOk, State.complete_engine]
  · rw [after_of_serve decFault, State.raise_engine]
  · rw [after_of_serve decOk, State.complete_engine]
  · exact absurd (.inl (decode_eq_release decoded)) h
  · rw [after_of_serve illegal, State.raise_engine]

theorem not_writesSchedule_of_isBlockCommand {r : Request} (h : isBlockCommand r) : ¬ writesSchedule r := by
  rcases h with enc | dec
  · simp [writesSchedule, enc]
  · simp [writesSchedule, dec]

/-- A KEYGEN of a supported width installs one and the same engine, whatever state it is served in. -/
theorem exists_engine_after_keygen {r : Request} (op : opField r.cw = 0x01#8) (kw : isKeyWidth (kwField r.cw)) :
    ∃ e : EngineInstance, ∀ s : State, (after r s).engine = some e := by
  have decoded := decode_keygen op
  rcases kw with w80 | w128
  · rw [w80] at decoded
    refine ⟨⟨.w80, generate80 (keyIn80 r.keyIn)⟩, fun s => ?_⟩
    rw [after_of_serve ((serve_of_decode decoded s).trans (exec_keygen_80 _ s)), State.complete_engine, State.install_engine]
  · rw [w128] at decoded
    refine ⟨⟨.w128, generate128 r.keyIn⟩, fun s => ?_⟩
    rw [after_of_serve ((serve_of_decode decoded s).trans (exec_keygen_128 _ s)), State.complete_engine, State.install_engine]

/-- Settles O26: a request that is not a RELEASE or a KEYGEN of a supported width keeps the engine, and such a KEYGEN installs an
engine of its own operands. -/
theorem scheduleIsFrozen : Obligations.ScheduleIsFrozen := by
  refine ⟨fun r s t served changed => ?_, fun r s block => ?_, fun r s s' op kw => ?_⟩
  · by_contra other
    rw [← after_of_serve served] at changed
    exact changed (after_engine_of_not_writesSchedule other s)
  · exact after_engine_of_not_writesSchedule (not_writesSchedule_of_isBlockCommand block) s
  · obtain ⟨e, installed⟩ := exists_engine_after_keygen op kw
    rw [State.valid_eq_isSome, installed s, installed s']
    exact ⟨rfl, rfl⟩

/-! ## What is left of a key -/

theorem exec_keygen_of_not_isKeyWidth {kw : BitVec 8} (h : ¬ isKeyWidth kw) (k : Key128) (s : State) :
    exec (.keygen kw k) s = .next (s.raise .invalidKeyWidth) :=
  exec_keygen_bad (fun w80 => h (.inl w80)) (fun w128 => h (.inr w128)) k s

/-- KEYGEN empties the working registers, whether it completes or faults. -/
theorem exec_keygen_work {kw : BitVec 8} {k : Key128} {s t : State} (h : exec (.keygen kw k) s = .next t) : t.work = .none := by
  by_cases supported : isKeyWidth kw
  · rcases supported with rfl | rfl
    · rw [exec_keygen_80] at h
      cases h
      exact State.complete_work _ _
    · rw [exec_keygen_128] at h
      cases h
      exact State.complete_work _ _
  · rw [exec_keygen_of_not_isKeyWidth supported] at h
    cases h
    exact State.raise_work _ _

/-- Settles O36: the key reaches the state only through its schedule, and only with a supported width. -/
theorem keyIsNotRetained : Obligations.KeyIsNotRetained := by
  refine ⟨fun k k' s same => ?_, fun k k' s same => ?_, fun kw k k' s unsupported => ?_, fun kw k s t executed => ?_,
    fun k => ?_, fun k => ?_⟩
  · rw [exec_keygen_80, exec_keygen_80, keyIn80, keyIn80, same]
  · rw [exec_keygen_128, exec_keygen_128, same]
  · rw [exec_keygen_of_not_isKeyWidth unsupported, exec_keygen_of_not_isKeyWidth unsupported]
  · rw [exec_keygen_work executed, Working.none]
  · rw [getElem_generate80, keyRegister80_zero, rkExtract80]
  · rw [getElem_generate128, keyRegister128_zero, rkExtract128]

/-! ## Reset -/

/-- Settles O1: at reset there is no engine instance, so its registers have no value, and the working registers are empty. -/
theorem resetHoldsNoValues : Obligations.ResetHoldsNoValues :=
  ⟨rfl, rfl, fun _ => rfl, rfl, rfl, rfl, rfl⟩

end Sys2Proof.Machine
end

section
/-! The operand ports: the bytes of a Block and of a key, and where a key sits in `KEY_IN` (20_memory rules R34 to R36). -/

namespace Sys2Proof.Machine

/-! ## Big-endian bytes, for any number of them -/

/-- Counted from the least significant end, bit `q` of a value stands in byte `q / 8`. -/
theorem getLsbD_ofBytes {w q : Nat} (bs : List Byte) (hq : q < w) :
    (ofBytes w bs).getLsbD q = (bs.reverse.getD (q / 8) 0#8).getLsbD (q % 8) := by
  induction bs using List.reverseRecOn generalizing q with
  | nil => simp [ofBytes]
  | append_singleton bs b ih =>
    rw [ofBytes_append, BitVec.getLsbD_or, BitVec.getLsbD_shiftLeft, BitVec.getLsbD_setWidth, List.reverse_concat]
    by_cases low : q < 8
    · simp [low, hq, Nat.div_eq_of_lt low, Nat.mod_eq_of_lt low]
    · obtain ⟨p, rfl⟩ : ∃ p, q = p + 8 := ⟨q - 8, by omega⟩
      have shifted := ih (by omega : p < w)
      simp [hq, shifted]

theorem getLsbD_ofBytes_toList {w n q : Nat} (hw : w = 8 * n) (bs : Vector Byte n) (hq : q < w) :
    (ofBytes w bs.toList).getLsbD q = (bs[n - 1 - q / 8]'(by omega)).getLsbD (q % 8) := by
  have inRange : q / 8 < bs.toList.reverse.length := by simp; omega
  rw [getLsbD_ofBytes _ hq, List.getD_eq_getElem _ _ inRange]
  simp

/-- Reading back the bytes of a value gives the value. -/
theorem ofBytes_byteOf {w n : Nat} (hw : w = 8 * n) (v : BitVec w) :
    ofBytes w (Vector.ofFn fun j : Fin n => byteOf n v j).toList = v := by
  apply BitVec.eq_of_getLsbD_eq
  intro q hq
  have position : 8 * (n - 1 - (n - 1 - q / 8)) + q % 8 = q := by omega
  have inByte : q % 8 < 8 := Nat.mod_lt _ (by decide)
  rw [getLsbD_ofBytes_toList hw _ hq, Vector.getElem_ofFn, getLsbD_byteOf, position, decide_eq_true inByte, Bool.true_and]

/-- The bytes of a value read from bytes are those bytes. -/
theorem byteOf_ofBytes {w n j : Nat} (hw : w = 8 * n) (bs : Vector Byte n) (hj : j < n) :
    byteOf n (ofBytes w bs.toList) j = bs[j] := by
  apply BitVec.eq_of_getLsbD_eq
  intro q hq
  have byte : n - 1 - (8 * (n - 1 - j) + q) / 8 = j := by omega
  have bit : (8 * (n - 1 - j) + q) % 8 = q := by omega
  rw [getLsbD_byteOf, decide_eq_true hq, Bool.true_and, getLsbD_ofBytes_toList hw bs (by omega)]
  simp only [byte, bit]

/-! ## The Block ports -/

theorem blockBytes_eq (v : Block) :
    blockBytes v = #v[v.extractLsb' 56 8, v.extractLsb' 48 8, v.extractLsb' 40 8, v.extractLsb' 32 8,
      v.extractLsb' 24 8, v.extractLsb' 16 8, v.extractLsb' 8 8, v.extractLsb' 0 8] := rfl

@[simp] theorem blockOfBytes_blockBytes (v : Block) : blockOfBytes (blockBytes v) = v :=
  ofBytes_byteOf (n := 8) rfl v

@[simp] theorem blockBytes_blockOfBytes (bs : Vector Byte 8) : blockBytes (blockOfBytes bs) = bs := by
  ext1 j hj
  rw [blockBytes, Vector.getElem_ofFn, blockOfBytes, byteOf_ofBytes rfl bs hj]

/-- Settles O59: the two round trips are those of big-endian bytes at eight bytes. -/
theorem blockBytesAreBigEndian : Obligations.BlockBytesAreBigEndian :=
  ⟨blockBytes_eq, blockOfBytes_blockBytes, blockBytes_blockOfBytes, (blockBytes_eq _).trans (by decide)⟩

/-! ## The key port -/

/-- The 48 bits above an 80-bit key in the port are not read. -/
@[simp] theorem keyIn80_append (upper : BitVec 48) (k : Key80) : keyIn80 (upper ++ k) = k := by
  apply BitVec.eq_of_getLsbD_eq
  intro q hq
  have inKey : (upper ++ k).getLsbD q = k.getLsbD q := by rw [BitVec.getLsbD_append, if_pos hq]
  rw [getLsbD_keyIn80, decide_eq_true hq, Bool.true_and, inKey]

theorem getElem_key80Bytes (k : Key80) {j : Nat} (hj : j < 10) :
    (key80Bytes k)[j] = k.extractLsb' (72 - 8 * j) 8 := by
  have position : 8 * (10 - 1 - j) = 72 - 8 * j := by omega
  rw [key80Bytes, Vector.getElem_ofFn, byteOf, position]

theorem getElem_key128Bytes (k : Key128) {j : Nat} (hj : j < 16) :
    (key128Bytes k)[j] = k.extractLsb' (120 - 8 * j) 8 := by
  have position : 8 * (16 - 1 - j) = 120 - 8 * j := by omega
  rw [key128Bytes, Vector.getElem_ofFn, byteOf, position]

@[simp] theorem key80OfBytes_key80Bytes (k : Key80) : key80OfBytes (key80Bytes k) = k :=
  ofBytes_byteOf (n := 10) rfl k

@[simp] theorem key128OfBytes_key128Bytes (k : Key128) : key128OfBytes (key128Bytes k) = k :=
  ofBytes_byteOf (n := 16) rfl k

/-- Settles O60: KEYGEN sees the key port through `keyIn80` or whole, and the bytes of a key are big-endian. -/
theorem keyPortLayout : Obligations.KeyPortLayout := by
  refine ⟨fun k s upper => ?_, fun k s => ?_, fun k s => ?_,
    fun k _ hj => getElem_key80Bytes k hj, fun k _ hj => getElem_key128Bytes k hj,
    key80OfBytes_key80Bytes, key128OfBytes_key128Bytes, by decide⟩
  · rw [exec_keygen_80, exec_keygen_80, keyIn80_append, keyIn80]
  · exact ⟨_, exec_keygen_80 _ s, by
      rw [State.complete_engine, State.install_engine, ← placeKey80, keyIn80_placeKey80]⟩
  · exact ⟨_, exec_keygen_128 k s, by rw [State.complete_engine, State.install_engine]⟩

end Sys2Proof.Machine
end

section
/-! What the command word and the operands decide: the decoder, the fields a command ignores, and the form of a response
(30_encoding rules R50 to R57). -/

namespace Sys2Proof.Machine

/-! ## Illegal words -/

theorem decode_of_not_isLegalOp {r : Request} (h : ¬ isLegalOp (opField r.cw)) : decode r = .error (.illegalCommand r.cw) := by
  obtain ⟨notKeygen, notEnc, notDec, notRelease⟩ : opField r.cw ≠ 0x01#8 ∧ opField r.cw ≠ 0x02#8 ∧ opField r.cw ≠ 0x03#8 ∧
      opField r.cw ≠ 0x04#8 := by simpa [isLegalOp] using h
  exact decode_illegal notKeygen notEnc notDec notRelease

theorem serve_of_not_isLegalOp {r : Request} (h : ¬ isLegalOp (opField r.cw)) (s : State) :
    serve r s = .next (s.answered { status := .fault .illegalCommand, dataOut := none }) := by
  rw [serve_of_illegal (decode_of_not_isLegalOp h), State.raise_eq_answered]

/-- Settles O4: the decoder's answer for each of the four operations, and an IllegalCommand raised for every other one. -/
theorem decoderIsTotalAndIllegalFaults : Obligations.DecoderIsTotalAndIllegalFaults := by
  refine ⟨fun r => ?_, rfl, by decide +kernel, by decide⟩
  split_ifs with keygen enc dec release
  · exact decode_keygen keygen
  · exact decode_enc enc
  · exact decode_dec dec
  · exact decode_release release
  · have illegal : ¬ isLegalOp (opField r.cw) := by simp [isLegalOp, keygen, enc, dec, release]
    exact ⟨decode_of_not_isLegalOp illegal, serve_of_not_isLegalOp illegal⟩

/-! ## What a request is read for -/

/-- All that serving reads of a request: the operation, with `KW` and `KEY_IN` for a KEYGEN and `DATA_IN` for a block command. -/
theorem serve_congr {r r' : Request} (op : opField r.cw = opField r'.cw)
    (key : opField r.cw = 0x01#8 → kwField r.cw = kwField r'.cw ∧ r.keyIn = r'.keyIn)
    (data : isBlockCommand r → r.dataIn = r'.dataIn) (s : State) : serve r s = serve r' s := by
  rcases decode_cases r with ⟨keygen, decoded⟩ | ⟨enc, decoded⟩ | ⟨dec, decoded⟩ | ⟨release, decoded⟩ |
    ⟨⟨notKeygen, notEnc, notDec, notRelease⟩, decoded⟩
  · obtain ⟨sameWidth, sameKey⟩ := key keygen
    rw [serve_of_decode decoded, serve_of_decode (decode_keygen (op ▸ keygen)), sameWidth, sameKey]
  · rw [serve_of_decode decoded, serve_of_decode (decode_enc (op ▸ enc)), data (.inl enc)]
  · rw [serve_of_decode decoded, serve_of_decode (decode_dec (op ▸ dec)), data (.inr dec)]
  · rw [serve_of_decode decoded, serve_of_decode (decode_release (op ▸ release))]
  · rw [op] at notKeygen notEnc notDec notRelease
    rw [serve_of_illegal decoded, serve_of_illegal (decode_illegal notKeygen notEnc notDec notRelease)]

theorem serve_keygen_80 {r : Request} (op : opField r.cw = 0x01#8) (kw : kwField r.cw = 80#8) (s : State) :
    serve r s = .next ((s.install .w80 (generate80 (keyIn80 r.keyIn))).complete none) := by
  rw [serve_of_decode (decode_keygen op), kw, exec_keygen_80]

theorem opField_ne_keygen_of_isBlockCommand {r : Request} (h : isBlockCommand r) : opField r.cw ≠ 0x01#8 := by
  rcases h with enc | dec
  · simp [enc]
  · simp [dec]

/-- Settles O10: KEYGEN 80 reads the key port through `keyIn80`; of every other command `serve_congr` says what it reads. -/
theorem ignoredOperandsDoNotMatter : Obligations.IgnoredOperandsDoNotMatter := by
  intro r r' s sameWord
  have sameOp : opField r.cw = opField r'.cw := congrArg opField sameWord
  have sameWidth : kwField r.cw = kwField r'.cw := congrArg kwField sameWord
  refine ⟨fun keygen kw sameKey => ?_, fun keygen _ sameKey => ?_, fun block sameData => ?_, fun release => ?_⟩
  · rw [serve_keygen_80 keygen kw, serve_keygen_80 (sameOp ▸ keygen) (sameWidth ▸ kw), keyIn80, keyIn80, sameKey]
  · exact serve_congr sameOp (fun _ => ⟨sameWidth, sameKey⟩) (fun block => absurd keygen (opField_ne_keygen_of_isBlockCommand block)) s
  · exact serve_congr sameOp (fun keygen => absurd keygen (opField_ne_keygen_of_isBlockCommand block)) (fun _ => sameData) s
  · exact serve_congr sameOp (fun keygen => by simp [release] at keygen) (fun block => by simp [isBlockCommand, release] at block) s

/-! ## The key width field -/

theorem isKeyWidth_iff_toNat (kw : BitVec 8) : isKeyWidth kw ↔ kw.toNat = 80 ∨ kw.toNat = 128 := by
  simp [isKeyWidth, ← BitVec.toNat_inj]

/-- KEYGEN of a supported width completes without data; beside that it only installs a schedule. -/
theorem exec_keygen_of_isKeyWidth {kw : BitVec 8} (h : isKeyWidth kw) (k : Key128) (s : State) :
    ∃ (sel : KeyWidth) (sched : Schedule), exec (.keygen kw k) s = .next ((s.install sel sched).complete none) := by
  rcases h with rfl | rfl
  · exact ⟨_, _, exec_keygen_80 k s⟩
  · exact ⟨_, _, exec_keygen_128 k s⟩

/-- Settles O11: KEYGEN completes or raises InvalidKeyWidth by its width; every other request is served by its `OP` and
operands. -/
theorem keyWidthFieldUse : Obligations.KeyWidthFieldUse := by
  refine ⟨fun kw k s => ?_, fun kw kw' op k x s notKeygen => ?_⟩
  · simp only [← isKeyWidth_iff_toNat]
    by_cases supported : isKeyWidth kw
    · obtain ⟨sel, sched, completes⟩ := exec_keygen_of_isKeyWidth supported k s
      exact ⟨_, _, completes, State.complete_response _ _, (if_pos supported).symm⟩
    · exact ⟨_, _, exec_keygen_of_not_isKeyWidth supported k s, State.raise_response _ _, (if_neg supported).symm⟩
  · have opOf (w : BitVec 8) : opField (w ++ op) = op := opField_mkCw w op
    apply serve_congr
    case op => exact (opOf kw).trans (opOf kw').symm
    case key => exact fun keygen => absurd ((opOf kw).symm.trans keygen) notKeygen
    case data => exact fun _ => rfl

/-! ## The response -/

/-- A block command completes with data or finds no schedule. -/
theorem serve_of_isBlockCommand {r : Request} (h : isBlockCommand r) (s : State) :
    (∃ d : Block, serve r s = .next (s.complete (some d))) ∨ serve r s = .next (s.raise .noSchedule) := by
  rcases h with enc | dec
  · rw [serve_of_decode (decode_enc enc)]
    cases engine : s.engine with
    | none => exact .inr (exec_enc_none engine _)
    | some e => exact .inl ⟨_, exec_enc_some engine _⟩
  · rw [serve_of_decode (decode_dec dec)]
    cases engine : s.engine with
    | none => exact .inr (exec_dec_none engine _)
    | some e => exact .inl ⟨_, exec_dec_some engine _⟩

/-- Any other request completes without data, in a state with the same responses returned, or raises a fault. -/
theorem serve_of_not_isBlockCommand {r : Request} (h : ¬ isBlockCommand r) (s : State) :
    (∃ u : State, u.returned = s.returned ∧ serve r s = .next (u.complete none)) ∨
      ∃ f : CommandFault, serve r s = .next (s.raise f) := by
  rcases decode_cases r with ⟨-, keygen⟩ | ⟨enc, -⟩ | ⟨dec, -⟩ | ⟨-, release⟩ | ⟨-, illegal⟩
  · rw [serve_of_decode keygen]
    by_cases supported : isKeyWidth (kwField r.cw)
    · obtain ⟨sel, sched, completes⟩ := exec_keygen_of_isKeyWidth supported r.keyIn s
      exact .inl ⟨_, s.install_returned sel sched, completes⟩
    · exact .inr ⟨_, exec_keygen_of_not_isKeyWidth supported r.keyIn s⟩
  · exact absurd (.inl enc) h
  · exact absurd (.inr dec) h
  · exact .inl ⟨_, s.discard_returned, (serve_of_decode release s).trans (exec_release s)⟩
  · exact .inr ⟨_, serve_of_illegal illegal s⟩

/-- Settles O22: a block command completes with data or faults without, and any other request has no data either way. -/
theorem responseForm : Obligations.ResponseForm := by
  intro r s
  by_cases block : isBlockCommand r
  · rcases serve_of_isBlockCommand block s with ⟨d, completes⟩ | raises
    · exact ⟨_, _, completes, State.complete_returned _ _, State.complete_response _ _, by simp [block]⟩
    · exact ⟨_, _, raises, State.raise_returned _ _, State.raise_response _ _, by simp⟩
  · rcases serve_of_not_isBlockCommand block s with ⟨u, sameReturned, completes⟩ | ⟨f, raises⟩
    · exact ⟨_, _, completes, by rw [State.complete_returned, sameReturned], State.complete_response _ _, by simp [block]⟩
    · exact ⟨_, _, raises, State.raise_returned _ _, State.raise_response _ _, by simp⟩

/-! ## The status codes -/

theorem Status.code_lt (st : Status) : st.code.toNat < 4 := by
  cases st with
  | ok => decide
  | fault f => cases f <;> decide

/-- Settles O21: each code is the definition's, and there are no other statuses. -/
theorem statusCodes : Obligations.StatusCodes :=
  ⟨rfl, rfl, rfl, rfl, Status.code_lt⟩

end Sys2Proof.Machine
end

section
/-! The key registers and their updates, and the schedules read from them (00_scope rule R10, 40_key_schedule
rules R64 to R71). -/

namespace Sys2Proof.Machine

/-! ## Rotation -/

/-- Where a rotation takes each bit. -/
theorem getLsbD_rotl_add_mod {w n i : Nat} (v : BitVec w) (hn : n < w) (hi : i < w) :
    (rotl v n).getLsbD ((i + n) % w) = v.getLsbD i := by
  rw [getLsbD_rotl v hn (Nat.mod_lt _ (by omega))]
  by_cases wraps : w ≤ i + n
  · have position : (i + n) % w = i + n - w := by rw [Nat.mod_eq_sub_mod wraps, Nat.mod_eq_of_lt (by omega)]
    have source : w - n + (i + n - w) = i := by omega
    rw [position, if_pos (by omega), source]
  · rw [Nat.mod_eq_of_lt (by omega), if_neg (by omega), Nat.add_sub_cancel]

/-- A rotation loses no bit. -/
theorem rotl_injective {w n : Nat} (hn : n < w) : Function.Injective fun v : BitVec w => rotl v n := by
  intro v v' same
  apply BitVec.eq_of_getLsbD_eq
  intro i hi
  rw [← getLsbD_rotl_add_mod v hn hi, ← getLsbD_rotl_add_mod v' hn hi]
  exact congrArg (fun rotated : BitVec w => rotated.getLsbD ((i + n) % w)) same

/-- A rotation as slices: the low bits come on top. -/
theorem rotl_eq_slices {m n : Nat} (hm : 0 < m) (v : BitVec (m + n)) : rotl v n = v.extractLsb' 0 m ++ v.extractLsb' m n := by
  apply BitVec.eq_of_getLsbD_eq
  intro i hi
  rw [getLsbD_rotl v (by omega) hi, BitVec.getLsbD_append, BitVec.getLsbD_extractLsb', BitVec.getLsbD_extractLsb',
    Nat.add_sub_cancel]
  split_ifs with low
  · simp [low]
  · have inTop : i - n < m := by omega
    simp [inTop]

/-! ## The round counter in its place -/

theorem getLsbD_counter_outside {w lsb i : Nat} (c : Counter) (outside : i < lsb ∨ lsb + 4 < i) :
    (c.setWidth w <<< lsb).getLsbD i = false := by
  rw [BitVec.getLsbD_shiftLeft, BitVec.getLsbD_setWidth]
  rcases outside with below | above
  · simp [below]
  · simp [BitVec.getLsbD_of_ge c (i - lsb) (by omega)]

theorem extractLsb'_counter {w lsb : Nat} (c : Counter) (fits : lsb + 5 ≤ w) :
    (c.setWidth w <<< lsb).extractLsb' lsb 5 = c := by
  apply BitVec.eq_of_getLsbD_eq
  intro i hi
  have inWidth : lsb + i < w := by omega
  simp [hi, inWidth]

theorem ctr_eq_ofNat_mod (i : Nat) : ctr i = BitVec.ofNat 5 ((i + 1) % 32) := by
  apply BitVec.eq_of_toNat_eq
  rw [toNat_ctr, BitVec.toNat_ofNat, Nat.mod_mod]

/-! ## The 80-bit update -/

theorem ksUpdate80_eq (kr : BitVec 80) (c : Counter) : ksUpdate80 kr c = sboxTop80 (rotl kr 61) ^^^ (c.setWidth 80 <<< 15) := rfl

theorem ksUpdate80_zero (kr : BitVec 80) : ksUpdate80 kr 0#5 = sboxTop80 (rotl kr 61) := by
  rw [ksUpdate80_eq, BitVec.setWidth_zero, BitVec.zero_shiftLeft, BitVec.xor_zero]

/-- An 80-bit register is its top nibble and the 76 bits below. -/
theorem eq_of_topNibble_of_below {t t' : BitVec 80} (top : t.extractLsb' 76 4 = t'.extractLsb' 76 4)
    (below : t.extractLsb' 0 76 = t'.extractLsb' 0 76) : t = t' := by
  have slices (u : BitVec 80) : u.extractLsb' 76 4 ++ u.extractLsb' 0 76 = u :=
    (BitVec.extractLsb'_append_extractLsb'_eq_extractLsb' (by decide)).trans BitVec.extractLsb'_eq_self
  rw [← slices t, ← slices t', top, below]

theorem extractLsb'_76_sboxTop80 (t : BitVec 80) : (sboxTop80 t).extractLsb' 76 4 = sbox (t.extractLsb' 76 4) :=
  BitVec.extractLsb'_append_eq_left

theorem extractLsb'_0_sboxTop80 (t : BitVec 80) : (sboxTop80 t).extractLsb' 0 76 = t.extractLsb' 0 76 :=
  BitVec.extractLsb'_append_eq_right

theorem sbox_injective : Function.Injective sbox :=
  Function.LeftInverse.injective sboxInv_sbox

theorem sboxTop80_injective : Function.Injective sboxTop80 := by
  intro t t' same
  apply eq_of_topNibble_of_below
  · apply sbox_injective
    rw [← extractLsb'_76_sboxTop80, ← extractLsb'_76_sboxTop80, same]
  · rw [← extractLsb'_0_sboxTop80 t, ← extractLsb'_0_sboxTop80 t', same]

/-- The S-box step commutes with changes below the top nibble. -/
theorem sboxTop80_xor {d : BitVec 80} (below : d.extractLsb' 76 4 = 0#4) (t : BitVec 80) :
    sboxTop80 (t ^^^ d) = sboxTop80 t ^^^ d := by
  apply eq_of_topNibble_of_below
  · rw [extractLsb'_76_sboxTop80, BitVec.extractLsb'_xor, BitVec.extractLsb'_xor, extractLsb'_76_sboxTop80, below,
      BitVec.xor_zero, BitVec.xor_zero]
  · rw [extractLsb'_0_sboxTop80, BitVec.extractLsb'_xor, BitVec.extractLsb'_xor, extractLsb'_0_sboxTop80]

theorem extractLsb'_76_counter80 (c : Counter) : (c.setWidth 80 <<< 15).extractLsb' 76 4 = 0#4 := by
  apply BitVec.eq_of_getLsbD_eq
  intro i _
  rw [BitVec.getLsbD_extractLsb', getLsbD_counter_outside c (by omega), Bool.and_false, BitVec.getLsbD_zero]

theorem ksUpdate80_injective (c : Counter) : Function.Injective fun kr => ksUpdate80 kr c := by
  intro kr kr' same
  exact rotl_injective (by decide) (sboxTop80_injective ((BitVec.xor_left_inj _).mp same))

/-- Below the S-box's nibble and beside the counter an update only rotates. -/
theorem getLsbD_ksUpdate80_eq_rotl (kr : BitVec 80) (c : Counter) {i : Nat} (top : i < 76) (counter : i < 15 ∨ 19 < i) :
    (ksUpdate80 kr c).getLsbD i = (rotl kr 61).getLsbD i := by
  rw [ksUpdate80_eq, BitVec.getLsbD_xor, getLsbD_counter_outside c counter, Bool.xor_false, getLsbD_sboxTop80, if_pos top,
    BitVec.getLsbD_extractLsb', decide_eq_true top, Bool.true_and, Nat.zero_add]

/-- Settles O47: the rotation as slices; no step loses a bit, and the counter stands below the nibble of the S-box step. -/
theorem keyUpdateOf80Bits : Obligations.KeyUpdateOf80Bits := by
  refine ⟨fun kr c => ?_, fun t c => sboxTop80_xor (extractLsb'_76_counter80 c) t,
    fun c => (ksUpdate80_injective c).bijective_of_finite, by decide⟩
  intro t1 t2
  have update : ksUpdate80 kr c = t2 ^^^ (c.setWidth 80 <<< 15) := by
    rw [ksUpdate80_eq, rotl_eq_slices (m := 19) (n := 61) (by decide) kr, sboxTop80]
  refine ⟨update, ?_, fun i outside => ?_⟩
  · rw [update, BitVec.extractLsb'_xor, extractLsb'_counter c (by decide)]
  · rw [update, BitVec.getLsbD_xor, getLsbD_counter_outside c outside, Bool.xor_false]

/-! ## The 128-bit update -/

theorem ksUpdate128_eq (kr : BitVec 128) (c : Counter) :
    ksUpdate128 kr c = sboxTop128 (rotl kr 61) ^^^ (c.setWidth 128 <<< 62) := rfl

theorem ksUpdate128_zero (kr : BitVec 128) : ksUpdate128 kr 0#5 = sboxTop128 (rotl kr 61) := by
  rw [ksUpdate128_eq, BitVec.setWidth_zero, BitVec.zero_shiftLeft, BitVec.xor_zero]

/-- Below the S-box's nibbles and beside the counter an update only rotates. -/
theorem getLsbD_ksUpdate128_eq_rotl (kr : BitVec 128) (c : Counter) {i : Nat} (top : i < 120) (counter : i < 62 ∨ 66 < i) :
    (ksUpdate128 kr c).getLsbD i = (rotl kr 61).getLsbD i := by
  rw [ksUpdate128_eq, BitVec.getLsbD_xor, getLsbD_counter_outside c counter, Bool.xor_false, getLsbD_sboxTop128, if_pos top,
    BitVec.getLsbD_extractLsb', decide_eq_true top, Bool.true_and, Nat.zero_add]

/-- Bits 123..120 of a 128-bit register after an update are the S-box of the key register's bits 62..59. -/
theorem getLsbD_ksUpdate128_lowerNibble (kr : BitVec 128) (c : Counter) {j : Nat} (hj : j < 4) :
    (ksUpdate128 kr c).getLsbD (120 + j) = (sbox (kr.extractLsb' 59 4)).getLsbD j := by
  have source : (rotl kr 61).extractLsb' 120 4 = kr.extractLsb' 59 4 := by
    apply BitVec.eq_of_getLsbD_eq
    intro i hi
    have position : 120 + i - 61 = 59 + i := by omega
    rw [BitVec.getLsbD_extractLsb', BitVec.getLsbD_extractLsb', getLsbD_rotl kr (by decide) (by omega), if_neg (by omega),
      position]
  rw [ksUpdate128_eq, BitVec.getLsbD_xor, getLsbD_counter_outside c (by omega), Bool.xor_false, getLsbD_sboxTop128,
    if_neg (by omega), Nat.add_sub_cancel_left, if_pos hj, source]

/-! ## The schedules -/

/-- Settles O49: the registers are `keyRegister80`, from which `generate80` extracts. -/
theorem scheduleOf80BitKeys : Obligations.ScheduleOf80BitKeys := by
  refine ⟨fun key => ⟨keyRegister80 key, keyRegister80_zero key, fun i _ => ?_, fun i hi => ?_⟩, by decide +kernel⟩
  · rw [keyRegister80_succ, ctr_eq_ofNat_mod]
  · rw [getElem_generate80, rkExtract80]

/-- Settles O50: the registers are `keyRegister128`, from which `generate128` extracts. -/
theorem scheduleOf128BitKeys : Obligations.ScheduleOf128BitKeys := by
  refine ⟨fun key => ⟨keyRegister128 key, keyRegister128_zero key, fun i _ => ?_, fun i hi => ?_⟩, by decide +kernel⟩
  · rw [keyRegister128_succ, ctr_eq_ofNat_mod]
  · rw [getElem_generate128, rkExtract128]

end Sys2Proof.Machine
end

section
/-! KEYGEN and RELEASE, and what their schedules are (40_key_schedule rules R67 and R72 to R76). -/

namespace Sys2Proof.Machine

/-! ## The last round key -/

theorem roundKeys_set_32 (sched : Schedule) (k : RoundKey) : roundKeys (sched.set 32 k) = roundKeys sched :=
  roundKeys_congr fun i hi => Vector.getElem_set_ne (by decide) _ (by omega)

theorem whiteningKey_set_32 (sched : Schedule) (k : RoundKey) : whiteningKey (sched.set 32 k) = whiteningKey sched :=
  Vector.getElem_set_ne (by decide) (by decide) (by decide)

theorem encrypt_set_32 (p : Block) (sched : Schedule) (k : RoundKey) : encrypt p (sched.set 32 k) = encrypt p sched := by
  rw [encrypt, encrypt, roundKeys_set_32, whiteningKey_set_32]

theorem decrypt_set_32 (c : Block) (sched : Schedule) (k : RoundKey) : decrypt c (sched.set 32 k) = decrypt c sched := by
  rw [decrypt, decrypt, roundKeys_set_32, whiteningKey_set_32]

/-- Settles O51: the last counter value is 0, and `encrypt` and `decrypt` do not read round key 32. -/
theorem lastCounterIsZeroAndUnobservable : Obligations.LastCounterIsZeroAndUnobservable := by
  have last : ctr 31 = 0#5 := by decide
  refine ⟨last, fun i hi => ?_, fun kr => ?_, fun kr => ?_, fun s e k x i command loaded => ?_⟩
  · rw [toNat_ctr, Nat.mod_eq_of_lt (by omega)]
  · rw [last, ksUpdate80_zero]
  · rw [last, ksUpdate128_zero]
  · rcases command with rfl | rfl
    · exact ⟨_, _, exec_enc_some loaded x, exec_enc_some rfl x, by
        rw [State.complete_response, State.complete_response, encrypt_set_32]⟩
    · exact ⟨_, _, exec_dec_some loaded x, exec_dec_some rfl x, by
        rw [State.complete_response, State.complete_response, decrypt_set_32]⟩

/-! ## The next states of the commands, whole -/

theorem State.complete_eq_answered (s : State) (d : Option Block) :
    s.complete d = s.answered { status := .ok, dataOut := d } := rfl

theorem State.install_complete_eq (s : State) (sel : KeyWidth) (sched : Schedule) :
    (s.install sel sched).complete none =
      { engine := some { kwsel := sel, rk := sched }, work := .none, response := some { status := .ok, dataOut := none },
        stream := s.stream, returned := s.returned ++ [{ status := .ok, dataOut := none }] } := rfl

theorem State.discard_complete_eq (s : State) :
    s.discard.complete none =
      { engine := none, work := .none, response := some { status := .ok, dataOut := none }, stream := s.stream,
        returned := s.returned ++ [{ status := .ok, dataOut := none }] } := rfl

theorem State.engine_eq_none_of_valid {s : State} (h : s.valid = false) : s.engine = none := by
  simpa using h

/-- Without a schedule ENC and DEC answer NoSchedule and change nothing else. -/
theorem blockCommands_without_schedule {s : State} (h : s.engine = none) (x : Block) :
    exec (.enc x) s = .next (s.answered { status := .fault .noSchedule, dataOut := none }) ∧
      exec (.dec x) s = .next (s.answered { status := .fault .noSchedule, dataOut := none }) := by
  rw [exec_enc_none h, exec_dec_none h, State.raise_eq_answered]
  exact ⟨rfl, rfl⟩

/-! ## RELEASE -/

/-- Settles O16: RELEASE completes in the state without its schedule, where ENC and DEC find none. -/
theorem releaseDiscardsSchedule : Obligations.ReleaseDiscardsSchedule := by
  refine ⟨fun s => ?_, fun r op => decode_release op, fun s x => ?_, fun s invalid => ?_⟩
  · rw [exec_release, State.discard_complete_eq]
  · exact ⟨_, exec_release s, rfl, rfl, blockCommands_without_schedule rfl x⟩
  · exact ⟨_, exec_release s, (State.engine_eq_none_of_valid invalid).symm⟩

/-! ## KEYGEN -/

/-- A KEYGEN of a supported width installs one and the same schedule, whatever state it starts from. -/
theorem exists_install_of_isKeyWidth {kw : BitVec 8} (h : isKeyWidth kw) (k : Key128) :
    ∃ (sel : KeyWidth) (sched : Schedule),
      ∀ s : State, exec (.keygen kw k) s = .next ((s.install sel sched).complete none) := by
  rcases h with rfl | rfl
  · exact ⟨_, _, exec_keygen_80 k⟩
  · exact ⟨_, _, exec_keygen_128 k⟩

theorem exec_keygen_unsupported {kw : BitVec 8} (h : ¬ isKeyWidth kw) (k : Key128) (s : State) :
    exec (.keygen kw k) s = .next (s.answered { status := .fault .invalidKeyWidth, dataOut := none }) := by
  rw [exec_keygen_of_not_isKeyWidth h, State.raise_eq_answered]

/-- Any `KW` beside the operation of KEYGEN decodes to KEYGEN with that width (30_encoding rule R48). -/
theorem decode_keygen_word (kw : BitVec 8) (k : Key128) (x : Block) :
    decode { cw := mkCw kw 0x01#8, keyIn := k, dataIn := x } = .ok (.keygen kw k) := by
  rw [decode_keygen (opField_mkCw kw 0x01#8), kwField_mkCw]

/-- Settles O13: KEYGEN of a supported width completes with its generated schedule; the values of the example are those of the
80-bit schedule. -/
theorem keygenInstallsSchedule : Obligations.KeygenInstallsSchedule := by
  refine ⟨fun k s => ?_, fun k s => ?_, fun kw k s unsupported => exec_keygen_unsupported unsupported k s,
    decode_keygen_word 80#8, decode_keygen_word 128#8, rfl, rfl, fun s => ?_⟩
  · rw [exec_keygen_80, State.install_complete_eq, keyIn80]
  · rw [exec_keygen_128, State.install_complete_eq]
  · obtain ⟨-, rk0, rk1, -, -, rk31, -⟩ := scheduleOf80BitKeys
    have zeroKey : keyIn80 0#128 = 0#80 := by decide
    refine ⟨_, exec_keygen_80 0#128 s, rfl, rfl, ?_⟩
    rw [zeroKey]
    exact ⟨congrArg some rk0, congrArg some rk1, congrArg some rk31⟩

/-- Settles O14: the key bits that are read decide the schedule a KEYGEN installs, from any state. -/
theorem keygenIsDeterministic : Obligations.KeygenIsDeterministic := by
  intro kw k k' s s' supported sameLow sameKey
  have sameExec : exec (.keygen kw k') s' = exec (.keygen kw k) s' := by
    by_cases w80 : kw = 80#8
    · subst w80
      rw [exec_keygen_80, exec_keygen_80, keyIn80, keyIn80, sameLow rfl]
    · rw [sameKey w80]
  obtain ⟨sel, sched, installs⟩ := exists_install_of_isKeyWidth supported k
  exact ⟨_, _, installs s, sameExec.trans (installs s'), rfl, rfl, fun _ => rfl⟩

/-! ## A 128-bit key with zero upper bits -/

/-- Equal schedules have equal top 64 bits in the registers of each index. -/
theorem getLsbD_keyRegister_of_generate_eq {k : Key80} {k' : Key128} (same : generate128 k' = generate80 k) {n i : Nat}
    (hn : n < 33) (hi : i < 64) : (keyRegister128 k' n).getLsbD (64 + i) = (keyRegister80 k n).getLsbD (16 + i) := by
  have sameRoundKey : rkExtract128 (keyRegister128 k' n) = rkExtract80 (keyRegister80 k n) := by
    rw [← getElem_generate128 k' n hn, ← getElem_generate80 k n hn, same]
  have sameBit := congrArg (fun roundKey : RoundKey => roundKey.getLsbD i) sameRoundKey
  simpa [rkExtract128, rkExtract80, hi] using sameBit

/-- Were they equal, round key 0 would leave bits 79..32 of the key zero. Then bit 59 of round key 1 is 1 in the 128-bit
schedule, from the S-box of a zero nibble, and bit 14 of the key in the 80-bit one; but bit 11 is that bit 14 in the 128-bit
schedule and 0 in the 80-bit one. -/
theorem generate128_setWidth_ne_generate80 (k : Key80) : generate128 (k.setWidth 128) ≠ generate80 k := by
  intro same
  have round0 {i : Nat} (hi : i < 64) : (k.setWidth 128).getLsbD (64 + i) = k.getLsbD (16 + i) :=
    getLsbD_keyRegister_of_generate_eq same (n := 0) (by decide) hi
  have round1 {i : Nat} (hi : i < 64) :
      (ksUpdate128 (k.setWidth 128) (ctr 0)).getLsbD (64 + i) = (ksUpdate80 k (ctr 0)).getLsbD (16 + i) :=
    getLsbD_keyRegister_of_generate_eq same (n := 1) (by decide) hi
  have high {q : Nat} (h32 : 32 ≤ q) (h80 : q < 80) : k.getLsbD q = false := by
    obtain ⟨i, rfl⟩ : ∃ i, q = 16 + i := ⟨q - 16, by omega⟩
    rw [← round0 (by omega), BitVec.getLsbD_setWidth, BitVec.getLsbD_of_ge k _ (by omega), Bool.and_false]
  have zeroNibble : (k.setWidth 128).extractLsb' 59 4 = 0#4 := by
    apply BitVec.eq_of_getLsbD_eq
    intro i hi
    rw [BitVec.getLsbD_extractLsb', BitVec.getLsbD_setWidth, high (by omega) (by omega), Bool.and_false, Bool.and_false,
      BitVec.getLsbD_zero]
  have bit14 : k.getLsbD 14 = true := by
    have bit59 := round1 (i := 59) (by decide)
    rw [getLsbD_ksUpdate128_lowerNibble _ _ (j := 3) (by decide), zeroNibble,
      getLsbD_ksUpdate80_eq_rotl k _ (by decide) (by decide), getLsbD_rotl k (by decide) (by decide)] at bit59
    have sboxBit : (sbox 0#4).getLsbD 3 = true := by decide
    exact bit59.symm.trans sboxBit
  have notBit14 : k.getLsbD 14 = false := by
    have bit11 := round1 (i := 11) (by decide)
    rw [getLsbD_ksUpdate128_eq_rotl _ _ (by decide) (by decide), getLsbD_rotl _ (by decide) (by decide),
      getLsbD_ksUpdate80_eq_rotl k _ (by decide) (by decide), getLsbD_rotl k (by decide) (by decide)] at bit11
    have sameBits : k.getLsbD 14 = k.getLsbD 46 := by simpa using bit11
    exact sameBits.trans (high (by decide) (by decide))
  exact Bool.noConfusion (bit14.symm.trans notBit14)

/-- Settles O15: each case from what KEYGEN installs or raises; the fifth from the first two round keys. -/
theorem keygenCornerCases : Obligations.KeygenCornerCases := by
  refine ⟨fun kw k s old supported _ => ?_, fun kw k s old x unsupported loaded => ?_, fun kw k s x unsupported invalid => ?_,
    fun k s => ?_, generate128_setWidth_ne_generate80, fun kw k s supported _ => ?_, fun kw k s listed => ?_⟩
  · obtain ⟨sel, sched, installs⟩ := exists_install_of_isKeyWidth supported k
    exact ⟨_, _, installs s, installs _, rfl, rfl⟩
  · exact ⟨_, exec_keygen_of_not_isKeyWidth unsupported k s, loaded, by
      rw [exec_enc_some ((s.raise_engine _).trans loaded), State.complete_eq_answered]⟩
  · exact ⟨_, exec_keygen_of_not_isKeyWidth unsupported k s, invalid,
      blockCommands_without_schedule ((s.raise_engine _).trans (State.engine_eq_none_of_valid invalid)) x⟩
  · rw [exec_keygen_80, exec_keygen_80, ← keyIn80, ← placeKey80, keyIn80_placeKey80]
  · obtain ⟨sel, sched, installs⟩ := exists_install_of_isKeyWidth supported k
    exact ⟨_, installs s, State.complete_response _ _⟩
  · apply exec_keygen_unsupported
    rintro (rfl | rfl)
    · exact absurd listed (by decide)
    · exact absurd listed (by decide)

end Sys2Proof.Machine
end

section
/-! The round function: key mixing, the substitution layers, the permutation layers and the round (41_round_function rules R77
to R88). -/

namespace Sys2Proof.Machine

/-! ## Key mixing -/

theorem addRoundKey_eq_xor (s : Block) (k : RoundKey) : addRoundKey s k = s ^^^ k := rfl

theorem addRoundKey_addRoundKey (s : Block) (k : RoundKey) : addRoundKey (addRoundKey s k) k = s := by
  rw [addRoundKey_eq_xor, addRoundKey_eq_xor, BitVec.xor_assoc, BitVec.xor_self, BitVec.xor_zero]

/-- Settles O37: the laws of xor; the all-one key is `BitVec.allOnes`. -/
theorem addRoundKeyIsXor : Obligations.AddRoundKeyIsXor := by
  intro s k
  have allOneKey : 0xFFFFFFFFFFFFFFFF#64 = BitVec.allOnes 64 := by decide
  refine ⟨addRoundKey_eq_xor s k, addRoundKey_addRoundKey s k, ?_, ?_, by decide⟩
  · rw [addRoundKey_eq_xor, BitVec.xor_zero]
  · rw [addRoundKey_eq_xor, allOneKey, BitVec.xor_allOnes]

/-! ## The substitution layers -/

theorem nibble_invSboxLayer (s : Block) {j : Nat} (hj : j < 16) : nibble (invSboxLayer s) j = sboxInv (nibble s j) :=
  nibble_mapNibbles sboxInv s hj

theorem invSboxLayer_sboxLayer (s : Block) : invSboxLayer (sboxLayer s) = s := by
  rw [invSboxLayer, sboxLayer, mapNibbles_mapNibbles, mapNibbles_id sboxInv_sbox]

theorem sboxLayer_invSboxLayer (s : Block) : sboxLayer (invSboxLayer s) = s := by
  rw [sboxLayer, invSboxLayer, mapNibbles_mapNibbles, mapNibbles_id sbox_sboxInv]

/-- Settles O40: the layers act on each nibble alone, and their tables undo each other. -/
theorem inverseSubstitutionUndoes : Obligations.InverseSubstitutionUndoes :=
  ⟨fun s _ hj => nibble_invSboxLayer s hj, fun s => ⟨invSboxLayer_sboxLayer s, sboxLayer_invSboxLayer s⟩, by decide +kernel⟩

/-! ## The permutation layers -/

theorem toNat_bitPos_ofNat {i : Nat} (hi : i < 64) : (BitVec.ofNat 6 i).toNat = i := by
  rw [BitVec.toNat_ofNat, Nat.mod_eq_of_lt (by omega)]

/-- Where the loop of `moveBits` puts bit `i`. -/
def destination (dest : BitPos → BitPos) (i : Nat) : Nat := (dest (BitVec.ofNat 6 i)).toNat

theorem getLsbD_moveBits_destination {dest inv : BitPos → BitPos} (hinv : ∀ i, inv (dest i) = i) (s : Block) {i : Nat}
    (hi : i < 64) : (moveBits dest s).getLsbD (destination dest i) = s.getLsbD i := by
  rw [destination, getLsbD_moveBits hinv, toNat_bitPos_ofNat hi]

theorem destination_injOn {dest inv : BitPos → BitPos} (hinv : ∀ i, inv (dest i) = i) {i j : Nat} (hi : i < 64) (hj : j < 64)
    (same : destination dest i = destination dest j) : i = j := by
  have samePosition : BitVec.ofNat 6 i = BitVec.ofNat 6 j :=
    Function.LeftInverse.injective hinv (BitVec.eq_of_toNat_eq same)
  rw [← toNat_bitPos_ofNat hi, samePosition, toNat_bitPos_ofNat hj]

/-- A movement of positions that can be undone only reorders the 64 positions. -/
theorem map_destination_range_perm {dest inv : BitPos → BitPos} (hinv : ∀ i, inv (dest i) = i) :
    ((List.range 64).map (destination dest)).Perm (List.range 64) := by
  have nodup : ((List.range 64).map (destination dest)).Nodup :=
    List.nodup_range.map_on fun i hi j hj same =>
      destination_injOn hinv (List.mem_range.mp hi) (List.mem_range.mp hj) same
  have subset : (List.range 64).map (destination dest) ⊆ List.range 64 := by
    intro p hp
    obtain ⟨i, -, rfl⟩ := List.mem_map.mp hp
    exact List.mem_range.mpr (dest _).isLt
  exact (nodup.subperm subset).perm_of_length_le (by rw [List.length_map])

/-- Moving bits keeps the number of one bits: counted at the destinations, in another order, they are those of the source. -/
theorem countP_moveBits {dest inv : BitPos → BitPos} (hinv : ∀ i, inv (dest i) = i) (s : Block) :
    (List.range 64).countP (fun i => (moveBits dest s).getLsbD i) = (List.range 64).countP (fun i => s.getLsbD i) := by
  rw [← (map_destination_range_perm hinv).countP_eq, List.countP_map]
  refine List.countP_congr fun i hi => ?_
  rw [Function.comp_apply, getLsbD_moveBits_destination hinv s (List.mem_range.mp hi)]

theorem getLsbD_pLayer_perm (s : Block) (i : BitPos) : (pLayer s).getLsbD (perm i).toNat = s.getLsbD i.toNat :=
  getLsbD_moveBits permInv_perm s i

theorem getLsbD_pLayer_of_perm_eq {i : BitPos} (stays : perm i = i) (s : Block) :
    (pLayer s).getLsbD i.toNat = s.getLsbD i.toNat := by
  have moved := getLsbD_pLayer_perm s i
  rwa [stays] at moved

theorem getLsbD_invPLayer_permInv (s : Block) (j : BitPos) :
    (invPLayer s).getLsbD (permInv j).toNat = s.getLsbD j.toNat :=
  getLsbD_moveBits perm_permInv s j

theorem getLsbD_invPLayer (s : Block) (i : BitPos) : (invPLayer s).getLsbD i.toNat = s.getLsbD (perm i).toNat := by
  have moved := getLsbD_invPLayer_permInv s (perm i)
  rwa [permInv_perm] at moved

theorem invPLayer_pLayer (s : Block) : invPLayer (pLayer s) = s :=
  moveBits_moveBits permInv_perm perm_permInv s

theorem pLayer_invPLayer (s : Block) : pLayer (invPLayer s) = s :=
  moveBits_moveBits perm_permInv permInv_perm s

/-- Settles O41: bits move by a table that can be undone, so none is lost; the four that stay are fixed points of the table. -/
theorem permutationMovesBits : Obligations.PermutationMovesBits := by
  refine ⟨getLsbD_pLayer_perm, countP_moveBits permInv_perm, fun s i listed => ?_, by decide +kernel⟩
  have fixedPoints : perm 0#6 = 0#6 ∧ perm 21#6 = 21#6 ∧ perm 42#6 = 42#6 ∧ perm 63#6 = 63#6 := by decide
  obtain ⟨h0, h21, h42, h63⟩ := fixedPoints
  simp only [List.mem_cons, List.not_mem_nil, or_false] at listed
  rcases listed with rfl | rfl | rfl | rfl
  · exact getLsbD_pLayer_of_perm_eq h0 s
  · exact getLsbD_pLayer_of_perm_eq h21 s
  · exact getLsbD_pLayer_of_perm_eq h42 s
  · exact getLsbD_pLayer_of_perm_eq h63 s

/-- Settles O42: the inverse layer moves bits by the inverse table. -/
theorem inversePermutationUndoes : Obligations.InversePermutationUndoes :=
  ⟨fun s i => ⟨getLsbD_invPLayer_permInv s i, getLsbD_invPLayer s i⟩, fun s => ⟨invPLayer_pLayer s, pLayer_invPLayer s⟩,
    by decide +kernel⟩

/-! ## The round -/

theorem applyRound_eq_layers (s : Block) (k : RoundKey) : applyRound s k = pLayer (sboxLayer (s ^^^ k)) := rfl

/-- Settles O44: the round is its three steps in order. -/
theorem roundStepsInOrder : Obligations.RoundStepsInOrder :=
  ⟨applyRound_eq_layers, by decide +kernel⟩

end Sys2Proof.Machine
end


section
/-! The block driver: `encrypt` and `decrypt` round by round, that they undo each other, and the commands ENC and DEC
(42_block_driver rules R91 to R97). -/

namespace Sys2Proof.Machine

/-! ## Encryption, round by round -/

/-- The state that enters round `r` of the encryption of `p` (rule R91). -/
def encryptionState (sched : Schedule) (p : Block) (r : Nat) : Block := ((roundKeys sched).take r).foldl applyRound p

theorem encryptionState_zero (sched : Schedule) (p : Block) : encryptionState sched p 0 = p := rfl

theorem encryptionState_succ (sched : Schedule) (p : Block) {r : Nat} (hr : r < 31) :
    encryptionState sched p (r + 1) = applyRound (encryptionState sched p r) (sched[r]'(Nat.lt_trans hr (by decide))) := by
  have inRange : r < (roundKeys sched).length := by rwa [length_roundKeys]
  rw [encryptionState, ← List.take_append_getElem inRange, getElem_roundKeys sched r hr, List.foldl_append,
    List.foldl_cons, List.foldl_nil, encryptionState]

theorem encrypt_eq_encryptionState (p : Block) (sched : Schedule) : encrypt p sched = encryptionState sched p 31 ^^^ sched[31] := by
  have all : (roundKeys sched).take 31 = roundKeys sched := List.take_of_length_le (length_roundKeys sched).le
  rw [encrypt, encryptionState, all, addRoundKey_eq_xor, whiteningKey]

/-- Settles O53: the sequence is `encryptionState`; that round key 32 is not used is `encrypt_set_32`. -/
theorem encryptionRounds : Obligations.EncryptionRounds :=
  ⟨fun p sched => ⟨encryptionState sched p, encryptionState_zero sched p, fun _ hr => encryptionState_succ sched p hr,
    encrypt_eq_encryptionState p sched⟩, encrypt_set_32⟩

/-! ## Decryption, round by round -/

/-- The state of the decryption of `c` from which the rounds below `r` are still to be undone (rule R94). -/
def decryptionState (sched : Schedule) (c : Block) (r : Nat) : Block :=
  ((roundKeys sched).drop r).reverse.foldl invRound (addRoundKey c (whiteningKey sched))

theorem decryptionState_31 (sched : Schedule) (c : Block) : decryptionState sched c 31 = c ^^^ sched[31] := by
  have noneLeft : (roundKeys sched).drop 31 = [] := List.drop_of_length_le (length_roundKeys sched).le
  rw [decryptionState, noneLeft, List.reverse_nil, List.foldl_nil, addRoundKey_eq_xor, whiteningKey]

theorem decryptionState_eq_invRound (sched : Schedule) (c : Block) {r : Nat} (hr : r < 31) :
    decryptionState sched c r = invRound (decryptionState sched c (r + 1)) (sched[r]'(Nat.lt_trans hr (by decide))) := by
  have inRange : r < (roundKeys sched).length := by rwa [length_roundKeys]
  rw [decryptionState, List.drop_eq_getElem_cons inRange, getElem_roundKeys sched r hr, List.reverse_cons, List.foldl_append,
    List.foldl_cons, List.foldl_nil, decryptionState]

theorem decrypt_eq_decryptionState (c : Block) (sched : Schedule) : decrypt c sched = decryptionState sched c 0 := rfl

/-- Settles O54: the sequence is `decryptionState`; that round key 32 is not used is `decrypt_set_32`. -/
theorem decryptionRounds : Obligations.DecryptionRounds :=
  ⟨fun c sched => ⟨decryptionState sched c, decryptionState_31 sched c, fun _ hr => decryptionState_eq_invRound sched c hr,
    decrypt_eq_decryptionState c sched⟩, decrypt_set_32⟩

/-! ## Encryption and decryption undo each other -/

theorem invRound_applyRound (s : Block) (k : RoundKey) : invRound (applyRound s k) k = s := by
  rw [invRound, applyRound, invPLayer_pLayer, invSboxLayer_sboxLayer, addRoundKey_addRoundKey]

theorem applyRound_invRound (s : Block) (k : RoundKey) : applyRound (invRound s k) k = s := by
  rw [applyRound, invRound, addRoundKey_addRoundKey, sboxLayer_invSboxLayer, pLayer_invPLayer]

theorem decrypt_encrypt (p : Block) (sched : Schedule) : decrypt (encrypt p sched) sched = p := by
  rw [decrypt, encrypt, addRoundKey_addRoundKey, foldl_reverse_foldl invRound_applyRound]

/-- The rounds redone are those of the reversed list undone, so `foldl_reverse_foldl` applies to that list. -/
theorem encrypt_decrypt (c : Block) (sched : Schedule) : encrypt (decrypt c sched) sched = c := by
  have redone := foldl_reverse_foldl applyRound_invRound (roundKeys sched).reverse (addRoundKey c (whiteningKey sched))
  rw [List.reverse_reverse] at redone
  rw [encrypt, decrypt, redone, addRoundKey_addRoundKey]

theorem decrypt_eq_iff (x y : Block) (sched : Schedule) : decrypt y sched = x ↔ encrypt x sched = y := by
  constructor
  · rintro rfl
    exact encrypt_decrypt y sched
  · rintro rfl
    exact decrypt_encrypt x sched

/-! ## ENC and DEC -/

theorem exec_enc_answered {s : State} {e : EngineInstance} (h : s.engine = some e) (x : Block) :
    exec (.enc x) s = .next (s.answered { status := .ok, dataOut := some (encrypt x e.rk) }) := by
  rw [exec_enc_some h, State.complete_eq_answered]

theorem exec_dec_answered {s : State} {e : EngineInstance} (h : s.engine = some e) (x : Block) :
    exec (.dec x) s = .next (s.answered { status := .ok, dataOut := some (decrypt x e.rk) }) := by
  rw [exec_dec_some h, State.complete_eq_answered]

/-- Any `KW` and `KEY_IN` beside the operation of ENC decode to ENC (30_encoding rule R51). -/
theorem decode_enc_word (kw : BitVec 8) (k : Key128) (x : Block) :
    decode { cw := mkCw kw 0x02#8, keyIn := k, dataIn := x } = .ok (.enc x) :=
  decode_enc (opField_mkCw kw 0x02#8)

/-- Any `KW` and `KEY_IN` beside the operation of DEC decode to DEC (30_encoding rule R51). -/
theorem decode_dec_word (kw : BitVec 8) (k : Key128) (x : Block) :
    decode { cw := mkCw kw 0x03#8, keyIn := k, dataIn := x } = .ok (.dec x) :=
  decode_dec (opField_mkCw kw 0x03#8)

/-- The known-answer vector of rule R92. -/
theorem encrypt_zero_generate80_zero : encrypt 0#64 (generate80 0#80) = 0x5579C1387B228445#64 := by decide +kernel

/-- Settles O17: ENC completes with the ciphertext, or raises NoSchedule in a state without an engine. -/
theorem encAnswersCiphertext : Obligations.EncAnswersCiphertext :=
  ⟨fun x _ _ loaded => exec_enc_answered loaded x,
    fun x _ invalid => (blockCommands_without_schedule (State.engine_eq_none_of_valid invalid) x).1,
    decode_enc_word, rfl, encrypt_zero_generate80_zero⟩

/-- Settles O18: DEC completes with the plaintext, or raises NoSchedule in a state without an engine; the example is the one of
ENC, undone. -/
theorem decAnswersPlaintext : Obligations.DecAnswersPlaintext :=
  ⟨fun x _ _ loaded => exec_dec_answered loaded x,
    fun x _ invalid => (blockCommands_without_schedule (State.engine_eq_none_of_valid invalid) x).2,
    decode_dec_word, decrypt_eq_iff, rfl, (decrypt_eq_iff _ _ _).mpr encrypt_zero_generate80_zero⟩

end Sys2Proof.Machine
end


section
/-! The faults: which request meets which, and the order of the checks (60_exceptions rules R99 to R104). -/

namespace Sys2Proof.Machine

/-! ## IllegalCommand -/

theorem isLegalOp_iff_toNat (op : BitVec 8) : isLegalOp op ↔ 1 ≤ op.toNat ∧ op.toNat ≤ 4 := by
  simp only [isLegalOp, ← BitVec.toNat_inj, BitVec.reduceToNat]
  omega

/-- Settles O5: an `OP` that is 0 or at least 5 is none of the four defined ones, and every such word is answered IllegalCommand. -/
theorem illegalCommandAnswer : Obligations.IllegalCommandAnswer := by
  intro r s outOfRange
  have illegal : ¬ isLegalOp (opField r.cw) := by
    rw [isLegalOp_iff_toNat]
    omega
  exact ⟨serve_of_not_isLegalOp illegal s, rfl⟩

/-! ## The block commands, with and without a schedule -/

theorem serve_of_isBlockCommand_of_invalid {r : Request} (h : isBlockCommand r) {s : State} (invalid : s.valid = false) :
    serve r s = .next (s.answered { status := .fault .noSchedule, dataOut := none }) := by
  obtain ⟨encFaults, decFaults⟩ := blockCommands_without_schedule (State.engine_eq_none_of_valid invalid) r.dataIn
  rcases h with enc | dec
  · exact (serve_of_decode (decode_enc enc) s).trans encFaults
  · exact (serve_of_decode (decode_dec dec) s).trans decFaults

theorem serve_of_isBlockCommand_of_valid {r : Request} (h : isBlockCommand r) {s : State} (valid : s.valid = true) :
    ∃ d : Block, serve r s = .next (s.complete (some d)) := by
  obtain ⟨e, loaded⟩ := Option.isSome_iff_exists.mp valid
  rcases h with enc | dec
  · exact ⟨_, (serve_of_decode (decode_enc enc) s).trans (exec_enc_some loaded _)⟩
  · exact ⟨_, (serve_of_decode (decode_dec dec) s).trans (exec_dec_some loaded _)⟩

/-! ## The order of the checks -/

/-- The status a request reports, by the checks of rule R104 in their order. That serving answers it is `serve_reports`. -/
def reportedStatus (r : Request) (s : State) : Status :=
  if ¬ isLegalOp (opField r.cw) then .fault .illegalCommand
  else if opField r.cw = 0x01#8 ∧ ¬ isKeyWidth (kwField r.cw) then .fault .invalidKeyWidth
  else if isBlockCommand r ∧ s.valid = false then .fault .noSchedule
  else .ok

theorem reportedStatus_of_not_isLegalOp {r : Request} (h : ¬ isLegalOp (opField r.cw)) (s : State) :
    reportedStatus r s = .fault .illegalCommand := if_pos h

theorem reportedStatus_of_keygen {r : Request} (h : opField r.cw = 0x01#8) (s : State) :
    reportedStatus r s = if ¬ isKeyWidth (kwField r.cw) then .fault .invalidKeyWidth else .ok := by
  simp [reportedStatus, isLegalOp, isBlockCommand, isKeyWidth, h]

theorem reportedStatus_of_isBlockCommand {r : Request} (h : isBlockCommand r) (s : State) :
    reportedStatus r s = if s.valid = false then .fault .noSchedule else .ok := by
  have legal : isLegalOp (opField r.cw) := .inr (h.imp_right .inl)
  have notKeygen : opField r.cw ≠ 0x01#8 := opField_ne_keygen_of_isBlockCommand h
  simp only [reportedStatus, legal, notKeygen, h, not_true, false_and, true_and, if_false]

theorem reportedStatus_of_release {r : Request} (h : opField r.cw = 0x04#8) (s : State) : reportedStatus r s = .ok := by
  simp [reportedStatus, isLegalOp, isBlockCommand, h]

theorem serve_keygen_reports {r : Request} (h : opField r.cw = 0x01#8) (s : State) :
    ∃ t p, serve r s = .next t ∧ t.response = some p ∧ p.status = reportedStatus r s := by
  rw [serve_of_decode (decode_keygen h), reportedStatus_of_keygen h]
  by_cases supported : isKeyWidth (kwField r.cw)
  · obtain ⟨sel, sched, completes⟩ := exec_keygen_of_isKeyWidth supported r.keyIn s
    exact ⟨_, _, completes, State.complete_response _ _, (if_neg (not_not.mpr supported)).symm⟩
  · exact ⟨_, _, exec_keygen_unsupported supported r.keyIn s, rfl, (if_pos supported).symm⟩

theorem serve_blockCommand_reports {r : Request} (h : isBlockCommand r) (s : State) :
    ∃ t p, serve r s = .next t ∧ t.response = some p ∧ p.status = reportedStatus r s := by
  rw [reportedStatus_of_isBlockCommand h]
  cases valid : s.valid with
  | false => exact ⟨_, _, serve_of_isBlockCommand_of_invalid h valid, rfl, rfl⟩
  | true =>
    obtain ⟨d, completes⟩ := serve_of_isBlockCommand_of_valid h valid
    exact ⟨_, _, completes, State.complete_response _ _, rfl⟩

/-- Every request, in every state, gets a response with the status of the first check it fails, or OK. -/
theorem serve_reports (r : Request) (s : State) :
    ∃ t p, serve r s = .next t ∧ t.response = some p ∧ p.status = reportedStatus r s := by
  by_cases legal : isLegalOp (opField r.cw)
  · rcases legal with keygen | enc | dec | release
    · exact serve_keygen_reports keygen s
    · exact serve_blockCommand_reports (.inl enc) s
    · exact serve_blockCommand_reports (.inr dec) s
    · exact ⟨_, _, (serve_of_decode (decode_release release) s).trans (exec_release s), State.complete_response _ _,
        (reportedStatus_of_release release s).symm⟩
  · exact ⟨_, _, serve_of_not_isLegalOp legal s, rfl, (reportedStatus_of_not_isLegalOp legal s).symm⟩

/-- Settles O20: the chain of checks is `reportedStatus`. -/
theorem faultsAndTheirPriority : Obligations.FaultsAndTheirPriority :=
  ⟨serve_reports, rfl, rfl, rfl⟩

/-! ## Which requests are answered with which fault -/

theorem answer_status (r : Request) (s : State) : (answer r s).map (·.status) = some (reportedStatus r s) := by
  obtain ⟨t, p, served, response, status⟩ := serve_reports r s
  rw [answer_of_serve served, response, Option.map_some, status]

theorem reportedStatus_eq_invalidKeyWidth_iff (r : Request) (s : State) :
    reportedStatus r s = .fault .invalidKeyWidth ↔ opField r.cw = 0x01#8 ∧ ¬ isKeyWidth (kwField r.cw) := by
  by_cases keygen : opField r.cw = 0x01#8
  · simp [reportedStatus_of_keygen keygen, keygen]
  · simp only [reportedStatus, keygen, false_and, if_false, iff_false]
    split_ifs <;> simp only [reduceCtorEq, Status.fault.injEq, not_false_eq_true]

theorem reportedStatus_eq_noSchedule_iff (r : Request) (s : State) :
    reportedStatus r s = .fault .noSchedule ↔ isBlockCommand r ∧ s.valid = false := by
  by_cases block : isBlockCommand r
  · simp [reportedStatus_of_isBlockCommand block, block]
  · simp only [reportedStatus, block, false_and, if_false, iff_false]
    split_ifs <;> simp only [reduceCtorEq, Status.fault.injEq, not_false_eq_true]

/-- Settles O12: KEYGEN of an unsupported width changes nothing but the response; `reportedStatus` says that nothing else is
answered so. -/
theorem invalidKeyWidthAnswer : Obligations.InvalidKeyWidthAnswer := by
  refine ⟨fun kw k s unsupported => exec_keygen_unsupported unsupported k s, fun r s => ?_, rfl, by decide +kernel⟩
  rw [answer_status, Option.some_inj, reportedStatus_eq_invalidKeyWidth_iff]

/-- Settles O19: `reportedStatus` says which requests are answered so; RELEASE leaves no schedule, and a KEYGEN that faults keeps
that there is none. -/
theorem noScheduleAnswer : Obligations.NoScheduleAnswer := by
  refine ⟨fun r s => ?_, fun r s block invalid => serve_of_isBlockCommand_of_invalid block invalid, fun s => rfl,
    fun s t released => ?_, fun kw k s t unsupported invalid served => ?_, rfl⟩
  · rw [answer_status, Option.some_inj, reportedStatus_eq_noSchedule_iff]
  · rw [exec_release] at released
    cases released
    rfl
  · rw [exec_keygen_of_not_isKeyWidth unsupported] at served
    cases served
    exact invalid

end Sys2Proof.Machine
end

section
/-! Reset from any state, and RELEASE beside it (70_reset_and_hazards rules R113 to R115). -/

namespace Sys2Proof.Machine

/-- `VALID`, `KWSEL` and the round keys are read from the engine alone (10_state rule R13). -/
theorem State.registers_eq_of_engine_eq {s t : State} (h : t.engine = s.engine) :
    t.valid = s.valid ∧ t.kwsel = s.kwsel ∧ ∀ i : Fin 33, t.rk i = s.rk i := by
  simp only [State.valid_eq_isSome, State.kwsel_eq_map, State.rk_eq_map, h, implies_true, and_self]

@[simp] theorem serveEvent_reset (s : State) : serveEvent .reset s = .next s.applyReset := rfl
@[simp] theorem serveEvent_resetDuring (r : Request) (s : State) : serveEvent (.resetDuring r) s = .next s.applyReset := rfl

/-- RELEASE leaves the engine and the working registers as a reset leaves them (rule R115). -/
theorem exec_release_eq_applyReset (s : State) :
    ∃ t, exec .release s = .next t ∧ t.engine = s.applyReset.engine ∧ t.work = s.applyReset.work := by
  refine ⟨_, exec_release s, ?_, ?_⟩
  · rw [State.complete_engine, State.discard_engine, State.applyReset_engine]
  · rw [State.complete_work, State.applyReset_work]

/-- Settles O2: a reset leaves the registers of `State.reset`, which hold no value, and RELEASE the same engine, from which
the registers are read. -/
theorem resetDiscardsEverything : Obligations.ResetDiscardsEverything := by
  refine ⟨fun s => ⟨?_, ?_⟩, fun s r => ⟨serveEvent_reset s, serveEvent_resetDuring r s⟩⟩
  · obtain ⟨valid, kwsel, rk, kr, st, ri, response⟩ := resetHoldsNoValues
    exact ⟨valid, kwsel, rk, kr, st, ri, response, s.applyReset_returned⟩
  · obtain ⟨t, released, sameEngine, sameWork⟩ := exec_release_eq_applyReset s
    obtain ⟨valid, kwsel, rk⟩ := State.registers_eq_of_engine_eq sameEngine
    exact ⟨t, released, valid, kwsel, rk, sameWork⟩

end Sys2Proof.Machine
end

section
/-! Encoding and decoding undo each other, and the request of each assembler line (30_encoding rules R48, R49 and R59). -/

namespace Sys2Proof.Machine

/-! ## Round trips -/

/-- The decoder reads back each command from the fields the encoder filled. -/
@[simp] theorem decode_encode (i : Instr) : decode (encode i) = .ok i := by
  cases i with
  | keygen kw k => exact decode_keygen_word kw k 0#64
  | enc x => exact decode_enc_word 0x00#8 0#128 x
  | dec x => exact decode_dec_word 0x00#8 0#128 x
  | release => exact decode_release (opField_mkCw 0x00#8 0x04#8)

/-- Settles O6: `decode_encode`. -/
theorem decodeOfEncode : Obligations.DecodeOfEncode :=
  decode_encode

/-- The word of a KEYGEN has the width field its request had. -/
theorem encode_keygen_cw {r : Request} (op : opField r.cw = 0x01#8) (k : Key128) :
    (encode (.keygen (kwField r.cw) k)).cw = r.cw := by
  rw [encode, ← op, mkCw_fields]

/-- Settles O7: the fields of the encoding, operation by operation; a clause about another operation is empty. -/
theorem encodeOfDecode : Obligations.EncodeOfDecode := by
  intro r i decoded
  have readBack : decode (encode i) = decode r := by rw [decode_encode, decoded]
  rcases decode_cases r with ⟨op, keygen⟩ | ⟨op, enc⟩ | ⟨op, dec⟩ | ⟨op, release⟩ | ⟨-, illegal⟩
  · obtain rfl : .keygen (kwField r.cw) r.keyIn = i := Except.ok.inj (keygen.symm.trans decoded)
    have word := encode_keygen_cw op r.keyIn
    exact ⟨congrArg opField word, fun _ => ⟨word, rfl⟩,
      fun block => absurd op (opField_ne_keygen_of_isBlockCommand block), readBack⟩
  · obtain rfl : .enc r.dataIn = i := Except.ok.inj (enc.symm.trans decoded)
    exact ⟨(opField_mkCw _ _).trans op.symm, fun keygen => by simp [op] at keygen, fun _ => rfl, readBack⟩
  · obtain rfl : .dec r.dataIn = i := Except.ok.inj (dec.symm.trans decoded)
    exact ⟨(opField_mkCw _ _).trans op.symm, fun keygen => by simp [op] at keygen, fun _ => rfl, readBack⟩
  · obtain rfl : .release = i := Except.ok.inj (release.symm.trans decoded)
    exact ⟨(opField_mkCw _ _).trans op.symm, fun keygen => by simp [op] at keygen,
      fun block => by simp [isBlockCommand, op] at block, readBack⟩
  · simp [illegal] at decoded

/-! ## The words of the assembler and of the spec's tables -/

/-- A command word as rule R59 writes it. -/
theorem mkCw_eq_shiftLeft_or (kw op : BitVec 8) : mkCw kw op = (kw.setWidth 16 <<< 8) ||| op.setWidth 16 := by
  apply BitVec.eq_of_getLsbD_eq
  intro i hi
  rw [getLsbD_mkCw, BitVec.getLsbD_or, BitVec.getLsbD_shiftLeft, BitVec.getLsbD_setWidth, BitVec.getLsbD_setWidth]
  by_cases low : i < 8
  · simp [low, hi]
  · have inWord : i - 8 < 16 := by omega
    simp [low, hi, inWord, BitVec.getLsbD_of_ge op i (by omega)]

/-- Settles O8: `encode` places the operands, and each constant word is evaluated. -/
theorem assembledRequests : Obligations.AssembledRequests := by
  have encWord : mkCw 0x00#8 0x02#8 = 0x0002#16 := by decide
  have decWord : mkCw 0x00#8 0x03#8 = 0x0003#16 := by decide
  have releaseWord : mkCw 0x00#8 0x04#8 = 0x0004#16 := by decide
  have keygen80Word : mkCw 80#8 0x01#8 = 0x5001#16 := by decide
  have keygen128Word : mkCw 128#8 0x01#8 = 0x8001#16 := by decide
  refine ⟨fun kw k => ?_, fun x => ?_, fun x => ?_, ?_, fun k => ?_, fun k => ?_⟩
  · rw [encode, mkCw_eq_shiftLeft_or, BitVec.setWidth_ofNat_of_le_of_lt (by decide) (by decide)]
  · rw [encode, encWord]
  · rw [encode, decWord]
  · rw [encode, releaseWord]
  · rw [encode, keygen80Word, placeKey80]
  · rw [encode, keygen128Word]

/-- Settles O9: the decoder is evaluated on each word. -/
theorem tableWordsDecode : Obligations.TableWordsDecode := by
  unfold Obligations.TableWordsDecode
  decide

end Sys2Proof.Machine
end

section
/-! Steps of the machine: the invariant, what a step can change, and that there is always a next one (10_state rules R14 to R21,
60_exceptions rule R112). -/

namespace Sys2Proof.Machine

/-! ## Serving as a function of the engine -/

/-- The invariant's clause about the schedule (10_state rule R17), of an engine that may be absent. -/
def ScheduleDerived (engine : Option EngineInstance) : Prop :=
  ∀ e, engine = some e → e.Derived

theorem scheduleDerived_none : ScheduleDerived none := by
  rintro e ⟨⟩

theorem scheduleDerived_generate80 (key : Key80) : ScheduleDerived (some ⟨.w80, generate80 key⟩) := by
  rintro e ⟨⟩
  exact ⟨key, rfl⟩

theorem scheduleDerived_generate128 (key : Key128) : ScheduleDerived (some ⟨.w128, generate128 key⟩) := by
  rintro e ⟨⟩
  exact ⟨key, rfl⟩

/-- In every state that holds `engine`, serving `r` gives the one response `p` and leaves `engine'`. -/
def ServesAs (r : Request) (engine engine' : Option EngineInstance) (p : Response) : Prop :=
  ∀ s : State, s.engine = engine → serve r s = .next ({ s with engine := engine' }.respond p)

theorem servesAs_self {r : Request} {engine : Option EngineInstance} {p : Response}
    (h : ∀ s : State, s.engine = engine → serve r s = .next (s.respond p)) : ServesAs r engine engine p := by
  rintro s rfl
  exact h s rfl

/-- A request and the engine it finds decide its response and the engine it leaves, which is the one it found or has a derived
schedule. -/
theorem exists_servesAs (r : Request) (engine : Option EngineInstance) :
    ∃ engine' p, ServesAs r engine engine' p ∧ (engine' = engine ∨ ScheduleDerived engine') := by
  rcases decode_cases r with ⟨-, keygen⟩ | ⟨-, enc⟩ | ⟨-, dec⟩ | ⟨-, release⟩ | ⟨-, illegal⟩
  · by_cases supported : isKeyWidth (kwField r.cw)
    · rcases supported with w80 | w128
      · rw [w80] at keygen
        exact ⟨_, _, fun s _ => (serve_of_decode keygen s).trans (exec_keygen_80 _ s), .inr (scheduleDerived_generate80 _)⟩
      · rw [w128] at keygen
        exact ⟨_, _, fun s _ => (serve_of_decode keygen s).trans (exec_keygen_128 _ s), .inr (scheduleDerived_generate128 _)⟩
    · exact ⟨_, _, servesAs_self fun s _ => (serve_of_decode keygen s).trans (exec_keygen_of_not_isKeyWidth supported _ s),
        .inl rfl⟩
  · cases engine with
    | none => exact ⟨_, _, servesAs_self fun s absent => (serve_of_decode enc s).trans (exec_enc_none absent _), .inl rfl⟩
    | some e => exact ⟨_, _, servesAs_self fun s loaded => (serve_of_decode enc s).trans (exec_enc_some loaded _), .inl rfl⟩
  · cases engine with
    | none => exact ⟨_, _, servesAs_self fun s absent => (serve_of_decode dec s).trans (exec_dec_none absent _), .inl rfl⟩
    | some e => exact ⟨_, _, servesAs_self fun s loaded => (serve_of_decode dec s).trans (exec_dec_some loaded _), .inl rfl⟩
  · exact ⟨_, _, fun s _ => (serve_of_decode release s).trans (exec_release s), .inr scheduleDerived_none⟩
  · exact ⟨_, _, servesAs_self fun s _ => serve_of_illegal illegal s, .inl rfl⟩

/-- What every served request does: it gives one response, and changes at most the engine beside it. -/
theorem serve_eq_respond {r : Request} {s t : State} (served : serve r s = .next t) :
    ∃ engine' p, t = { s with engine := engine' }.respond p ∧ (engine' = s.engine ∨ ScheduleDerived engine') := by
  obtain ⟨engine', p, serves, derived⟩ := exists_servesAs r s.engine
  rw [serves s rfl] at served
  cases served
  exact ⟨engine', p, rfl, derived⟩

/-! ## The invariant -/

/-- Settles O28: after reset there is no engine, no response and no value in a working register. -/
theorem resetHasScheduleDerived : Obligations.ResetHasScheduleDerived :=
  { schedule := scheduleDerived_none
    working := State.reset_work
    responses := fun _ returned => absurd returned List.not_mem_nil
    port := fun _ response => nomatch response }

theorem serve_dataOnlyWithOk {r : Request} {s t : State} {p : Response} (served : serve r s = .next t)
    (response : t.response = some p) : p.DataOnlyWithOk := by
  obtain ⟨t', p', served', -, response', form⟩ := responseForm r s
  obtain rfl : t' = t := Host.Outcome.next.inj (served'.symm.trans served)
  obtain rfl : p' = p := Option.some.inj (response'.symm.trans response)
  exact fun data => (form.mp data).2

/-- Giving a response establishes the invariant's clauses about working registers and ports, and keeps the others. -/
theorem State.inv_respond {s : State} {p : Response} (schedule : ScheduleDerived s.engine)
    (responses : ∀ q ∈ s.returned, q.DataOnlyWithOk) (dataOnlyWithOk : p.DataOnlyWithOk) : (s.respond p).Inv where
  schedule := schedule
  working := s.respond_work p
  responses := by
    intro q returned
    rw [State.respond_returned, List.mem_append, List.mem_singleton] at returned
    rcases returned with before | rfl
    · exact responses q before
    · exact dataOnlyWithOk
  port := by
    intro q response
    rw [State.respond_response] at response
    rw [State.respond_returned, List.getLast?_concat, response]

theorem serve_keeps_inv {r : Request} {s t : State} (inv : s.Inv) (served : serve r s = .next t) : t.Inv := by
  obtain ⟨engine', p, rfl, derived⟩ := serve_eq_respond served
  have schedule : ScheduleDerived engine' := by
    rcases derived with rfl | derived
    · exact inv.schedule
    · exact derived
  exact State.inv_respond schedule inv.responses (serve_dataOnlyWithOk served (State.respond_response _ p))

/-- The invariant does not speak of the command stream. -/
theorem State.Inv.with_stream {s : State} (inv : s.Inv) (rest : List HostEvent) : { s with stream := rest }.Inv :=
  { schedule := inv.schedule, working := inv.working, responses := inv.responses, port := inv.port }

/-- Reset loses the schedule and the ports; the responses already returned stay. -/
theorem State.Inv.reset_with {s : State} (inv : s.Inv) (rest : List HostEvent) :
    { State.reset with stream := rest, returned := s.returned }.Inv :=
  { schedule := scheduleDerived_none, working := rfl, responses := inv.responses, port := fun _ response => nomatch response }

/-- Settles O27: an idle step changes nothing, serving keeps the invariant, and a reset establishes what it does not keep. -/
theorem stepKeepsScheduleDerived : Obligations.StepKeepsScheduleDerived := by
  intro s t inv stepped
  rcases step_cases s with ⟨-, idle⟩ | ⟨r, rest, -, serves⟩ | ⟨e, rest, -, -, resets⟩
  · rw [idle] at stepped
    cases stepped
    exact inv
  · exact serve_keeps_inv (inv.with_stream rest) (serves.symm.trans stepped)
  · rw [resets] at stepped
    cases stepped
    exact inv.reset_with rest

/-! ## What a step does -/

/-- Settles O3: the event is taken and the reset applied. -/
theorem resetEventStep : Obligations.ResetEventStep := by
  intro s e rest next isReset
  rw [step_event next]
  rcases isReset with rfl | ⟨r, rfl⟩
  · exact serveEvent_reset _
  · exact serveEvent_resetDuring r _

/-- Settles O29: an idle step changes nothing, and of requests `scheduleIsFrozen` says which change the schedule. -/
theorem onlyNamedEventsChangeSchedule : Obligations.OnlyNamedEventsChangeSchedule := by
  intro s t stepped changed
  rcases step_cases s with ⟨-, idle⟩ | ⟨r, rest, next, serves⟩ | ⟨e, rest, next, isReset, -⟩
  · rw [idle] at stepped
    cases stepped
    exact absurd rfl changed
  · exact ⟨_, rest, next, .inr (.inr ⟨r, rfl, scheduleIsFrozen.1 r _ t (serves.symm.trans stepped) changed⟩)⟩
  · exact ⟨e, rest, next, isReset.imp_right .inl⟩

/-- Settles O30: each of the three kinds of step has a next state, and an idle one the same. -/
theorem machineNeverStops : Obligations.MachineNeverStops := by
  refine ⟨fun s => ?_, fun s empty => step_idle empty⟩
  rcases step_cases s with ⟨-, idle⟩ | ⟨r, rest, -, serves⟩ | ⟨e, rest, -, -, resets⟩
  · exact ⟨s, idle⟩
  · exact ⟨_, serves.trans (serve_after r _)⟩
  · exact ⟨_, resets⟩

theorem step_request {s : State} {r : Request} {rest : List HostEvent} (next : s.stream = .request r :: rest) :
    step s = serve r { s with stream := rest } :=
  step_event next

/-- Settles O31: the event is taken and the request served. -/
theorem stepRunsDecodedCommand : Obligations.StepRunsDecodedCommand := by
  intro s r rest i next decoded
  rw [step_request next, serve_of_decode decoded]

/-- Settles O32: a request ends with a response and a reset empties every register; only an idle step leaves them. -/
theorem workingRegistersAreEmptied : Obligations.WorkingRegistersAreEmptied := by
  intro s t pending stepped
  have emptied : t.work = .none := by
    rcases step_cases s with ⟨empty, -⟩ | ⟨r, rest, -, serves⟩ | ⟨e, rest, -, -, resets⟩
    · exact absurd empty pending
    · obtain ⟨engine', p, rfl, -⟩ := serve_eq_respond (serves.symm.trans stepped)
      exact State.respond_work _ p
    · rw [resets] at stepped
      cases stepped
      exact State.reset_work
  rw [emptied, Working.none]
  exact ⟨rfl, rfl, rfl⟩

end Sys2Proof.Machine
end

section
/-! What a command leaves unchanged, and sequences of requests: only the engine carries over from one request to the next
(20_memory rules R40 and R41, 60_exceptions rule R106). -/

namespace Sys2Proof.Machine

/-! ## What a command leaves unchanged -/

theorem serve_encode (i : Instr) (s : State) : serve (encode i) s = exec i s :=
  serve_of_decode (decode_encode i) s

theorem serve_frame {r : Request} {s t : State} (served : serve r s = .next t) :
    t.stream = s.stream ∧ ∃ p, t.response = some p ∧ t.returned = s.returned ++ [p] := by
  obtain ⟨engine', p, rfl, -⟩ := serve_eq_respond served
  exact ⟨State.respond_stream _ p, p, State.respond_response _ p, State.respond_returned _ p⟩

/-- Settles O25: a command is the serving of its encoding, whose frame is `serve_frame`; the engine is kept by a block command and
by a fault. -/
theorem commandFrames : Obligations.CommandFrames := by
  refine fun s t => ⟨fun i executed => ?_, fun x executed => ?_, fun kw k unsupported executed => ?_⟩
  · rw [← serve_encode] at executed
    obtain ⟨sameStream, p, -, returned⟩ := serve_frame executed
    exact ⟨sameStream, [p], returned.symm⟩
  · have kept {r : Request} (block : isBlockCommand r) (served : serve r s = .next t) : t.engine = s.engine := by
      rw [← after_of_serve served, after_engine_of_not_writesSchedule (not_writesSchedule_of_isBlockCommand block)]
    apply State.registers_eq_of_engine_eq
    rcases executed with enc | dec
    · exact kept (.inl (opField_mkCw _ _)) ((serve_encode _ s).trans enc)
    · exact kept (.inr (opField_mkCw _ _)) ((serve_encode _ s).trans dec)
  · rw [exec_keygen_of_not_isKeyWidth unsupported] at executed
    cases executed
    exact State.registers_eq_of_engine_eq (s.raise_engine _)

/-! ## Only the engine carries over -/

/-- Settles O34: `exists_servesAs` gives one response and one engine for both states. -/
theorem resultsDependOnEngineAndRequest : Obligations.ResultsDependOnEngineAndRequest := by
  intro r s s' same
  obtain ⟨engine', p, serves, -⟩ := exists_servesAs r s'.engine
  exact ⟨_, _, serves s same, serves s' rfl, rfl, rfl⟩

theorem answer_congr (r : Request) {s s' : State} (same : s.engine = s'.engine) : answer r s = answer r s' := by
  obtain ⟨t, t', served, served', response, -⟩ := resultsDependOnEngineAndRequest r s s' same
  rw [answer_of_serve served, answer_of_serve served', response]

theorem after_engine_congr (r : Request) {s s' : State} (same : s.engine = s'.engine) :
    (after r s).engine = (after r s').engine := by
  obtain ⟨t, t', served, served', -, engine⟩ := resultsDependOnEngineAndRequest r s s' same
  rw [after_of_serve served, after_of_serve served', engine]

@[simp] theorem answers_nil (s : State) : answers [] s = [] := rfl
@[simp] theorem answers_cons (r : Request) (rs : List Request) (s : State) :
    answers (r :: rs) s = answer r s :: answers rs (after r s) := rfl
@[simp] theorem afterAll_nil (s : State) : afterAll [] s = s := rfl
@[simp] theorem afterAll_cons (r : Request) (rs : List Request) (s : State) :
    afterAll (r :: rs) s = afterAll rs (after r s) := rfl

theorem answers_congr (rs : List Request) {s s' : State} (same : s.engine = s'.engine) : answers rs s = answers rs s' := by
  induction rs generalizing s s' with
  | nil => rfl
  | cons r rs ih => rw [answers_cons, answers_cons, answer_congr r same, ih (after_engine_congr r same)]

theorem afterAll_engine_congr (rs : List Request) {s s' : State} (same : s.engine = s'.engine) :
    (afterAll rs s).engine = (afterAll rs s').engine := by
  induction rs generalizing s s' with
  | nil => exact same
  | cons r rs ih => exact ih (after_engine_congr r same)

/-! ## Deleting a faulting request -/

theorem answers_append (before rest : List Request) (s : State) :
    answers (before ++ rest) s = answers before s ++ answers rest (afterAll before s) := by
  induction before generalizing s with
  | nil => rfl
  | cons r before ih => rw [List.cons_append, answers_cons, ih, answers_cons, afterAll_cons, List.cons_append]

theorem afterAll_append (before rest : List Request) (s : State) :
    afterAll (before ++ rest) s = afterAll rest (afterAll before s) := by
  induction before generalizing s with
  | nil => rfl
  | cons r before ih => exact ih (after r s)

theorem length_answers (rs : List Request) (s : State) : (answers rs s).length = rs.length := by
  induction rs generalizing s with
  | nil => rfl
  | cons r rs ih => rw [answers_cons, List.length_cons, List.length_cons, ih]

theorem after_engine_of_fault {r : Request} {s : State} {f : CommandFault}
    (faults : (answer r s).map (·.status) = some (.fault f)) : (after r s).engine = s.engine := by
  rcases serve_completes_or_raises r s with ⟨u, d, completes⟩ | ⟨f', raises⟩
  · simp [answer_of_serve completes] at faults
  · rw [after_of_serve raises, State.raise_engine]

/-- Settles O24: the requests after the faulting one find the engine it found. -/
theorem faultingRequestIsDeletable : Obligations.FaultingRequestIsDeletable := by
  intro before rest r s f faults
  have sameEngine := after_engine_of_fault faults
  constructor
  · have deleted := List.eraseIdx_append_of_length_le (length_answers before s).le
      (answers (r :: rest) (afterAll before s))
    rw [length_answers, Nat.sub_self] at deleted
    rw [answers_append, answers_append, deleted, answers_cons, List.eraseIdx_zero, List.tail_cons,
      answers_congr rest sameEngine]
  · rw [afterAll_append, afterAll_append, afterAll_cons, afterAll_engine_congr rest sameEngine]

/-! ## Reordering block commands -/

theorem blockCommands_keep_engine {rs : List Request} (blocks : ∀ r ∈ rs, isBlockCommand r) (s : State) :
    (afterAll rs s).engine = s.engine := by
  induction rs generalizing s with
  | nil => rfl
  | cons r rs ih =>
    obtain ⟨block, blocks⟩ := List.forall_mem_cons.mp blocks
    rw [afterAll_cons, ih blocks, after_engine_of_not_writesSchedule (not_writesSchedule_of_isBlockCommand block)]

/-- Every block command of a sequence is answered as if it were the first. -/
theorem answers_of_blockCommands {rs : List Request} (blocks : ∀ r ∈ rs, isBlockCommand r) (s : State) :
    answers rs s = rs.map fun r => answer r s := by
  induction rs with
  | nil => rfl
  | cons r rs ih =>
    obtain ⟨block, blocks⟩ := List.forall_mem_cons.mp blocks
    have kept := after_engine_of_not_writesSchedule (not_writesSchedule_of_isBlockCommand block) s
    rw [answers_cons, answers_congr rs kept, ih blocks, List.map_cons]

/-- Settles O33: each response is paired with its request by one function, so a permutation of the requests permutes the pairs. -/
theorem blockCommandsCommute : Obligations.BlockCommandsCommute := by
  intro rs rs' s blocks permuted
  have blocks' : ∀ r ∈ rs', isBlockCommand r := fun r member => blocks r (permuted.mem_iff.mpr member)
  refine ⟨?_, blockCommands_keep_engine blocks s, blockCommands_keep_engine blocks' s⟩
  rw [answers_of_blockCommands blocks, answers_of_blockCommands blocks', ← List.map_prod_left_eq_zip,
    ← List.map_prod_left_eq_zip]
  exact permuted.map _

/-! ## A run -/

theorem run_succ_of_step {s t : State} (stepped : step s = .next t) (k : Nat) :
    Host.Core.run Sys2Proof.core (k + 1) s = Host.Core.run Sys2Proof.core k t := by
  have coreStepped : Sys2Proof.core.step s = .next t := stepped
  simp only [Host.Core.run, coreStepped]

/-- Settles O35: the step that takes the first request gives its response and leaves the engine that the remaining ones
find. -/
theorem runServesRequestsInOrder : Obligations.RunServesRequestsInOrder := by
  intro rs
  induction rs with
  | nil =>
    intro s empty
    exact ⟨s, rfl, empty, by rw [answers_nil, List.append_nil], rfl⟩
  | cons r rs ih =>
    intro s pending
    have served := serve_after r { s with stream := rs.map .request }
    have sameEngine : (after r { s with stream := rs.map .request }).engine = (after r s).engine := after_engine_congr r rfl
    have firstAnswer : answer r { s with stream := rs.map .request } = answer r s := answer_congr r rfl
    obtain ⟨stream, p, response, returned⟩ := serve_frame served
    obtain ⟨t, ran, empty, later, engine⟩ := ih _ stream
    refine ⟨t, ?_, empty, ?_, ?_⟩
    · rw [List.length_cons, run_succ_of_step ((step_request pending).trans served), ran]
    · rw [answer_eq_response, response] at firstAnswer
      rw [later, returned, List.map_append, List.append_assoc, answers_cons, ← firstAnswer, answers_congr rs sameEngine]
      rfl
    · rw [engine, afterAll_engine_congr rs sameEngine, afterAll_cons]

end Sys2Proof.Machine
end

section
/-! The tables and the layers of the round function (41_round_function rules R78 to R89). -/

namespace Sys2Proof.Machine

/-! ## The tables -/

/-- The closed forms of rules R83 and R85. -/
theorem perm_closedForm (i : BitPos) :
    (perm i).toNat = 16 * (i.toNat % 4) + i.toNat / 4 ∧ (permInv i).toNat = 4 * (i.toNat % 16) + i.toNat / 16 := by
  revert i
  decide

/-- Settles O38: the model's checks of its constants, with the closed forms of the permutation. -/
theorem tablesAreInverseBijections : Obligations.TablesAreInverseBijections :=
  ⟨by decide, fun n => ⟨sboxInv_sbox n, sbox_sboxInv n, sbox_ne_self n⟩, fun v => ⟨sboxInv v, sbox_sboxInv v⟩,
    sbox_tables_valid, sboxInv_not_involution, perm_tables_valid, fun i => by
      obtain ⟨closedForm, inverseClosedForm⟩ := perm_closedForm i
      exact ⟨closedForm, inverseClosedForm, permInv_perm i, perm_permInv i⟩⟩

/-! ## The substitution layer -/

theorem nibble_sboxLayer (s : Block) {j : Nat} (hj : j < 16) : nibble (sboxLayer s) j = sbox (nibble s j) :=
  nibble_mapNibbles sbox s hj

/-- Settles O39: `nibble` is the slice of the statement. -/
theorem substitutionIsNibblewise : Obligations.SubstitutionIsNibblewise :=
  fun s _ hj => nibble_sboxLayer s hj

/-! ## The order of the permutation layer -/

/-- Three moves bring every bit back to its position (rule R87). -/
theorem pLayer_pLayer_pLayer (s : Block) : pLayer (pLayer (pLayer s)) = s := by
  obtain ⟨⟨orderThree, -⟩, -⟩ := perm_order_three
  apply BitVec.eq_of_getLsbD_eq
  intro q hq
  obtain ⟨i, rfl⟩ : ∃ i : BitPos, i.toNat = q := ⟨BitVec.ofNat 6 q, toNat_bitPos_ofNat hq⟩
  have moved := getLsbD_pLayer_perm (pLayer (pLayer s)) (perm (perm i))
  rwa [(orderThree i).1, getLsbD_pLayer_perm, getLsbD_pLayer_perm] at moved

theorem invPLayer_eq_pLayer_pLayer (s : Block) : invPLayer s = pLayer (pLayer s) := by
  calc invPLayer s = invPLayer (pLayer (pLayer (pLayer s))) := by rw [pLayer_pLayer_pLayer]
    _ = pLayer (pLayer s) := invPLayer_pLayer _

/-- Settles O43: order three carries over from positions to Blocks; the Block with bit 4 alone shows that two moves are too few,
by the examples of `permutationMovesBits`. -/
theorem permutationHasOrderThree : Obligations.PermutationHasOrderThree := by
  refine ⟨perm_order_three, fun s => ⟨pLayer_pLayer_pLayer s, invPLayer_eq_pLayer_pLayer s⟩, 0x10#64, ?_⟩
  obtain ⟨-, -, -, -, -, -, bit1, bit4, -⟩ := permutationMovesBits
  rw [bit4, bit1]
  decide

/-! ## The inverse round -/

theorem invRound_eq_layers (s : Block) (k : RoundKey) : invRound s k = invSboxLayer (invPLayer s) ^^^ k := rfl

/-- Settles O45: each step of the round is undone by its inverse. -/
theorem inverseRoundUndoes : Obligations.InverseRoundUndoes :=
  fun s k => ⟨invRound_eq_layers s k, invRound_applyRound s k, applyRound_invRound s k⟩

end Sys2Proof.Machine
end

section
/-! Rotation by slices, the 128-bit register update, and that a schedule determines its key (00_scope rule R10, 40_key_schedule
rule R69, 70_reset_and_hazards rule R122). -/

namespace Sys2Proof.Machine

/-! ## Rotation -/

/-- A rotation by the rest of the width goes on to where the first one started. -/
theorem rotl_rotl_of_add_eq {w m n : Nat} (hm : m < w) (hn : n < w) (h : n + m = w) (v : BitVec w) : rotl (rotl v n) m = v := by
  apply BitVec.eq_of_getLsbD_eq
  intro i hi
  have position : ((i + n) % w + m) % w = i := by
    rw [Nat.mod_add_mod, Nat.add_assoc, h, Nat.add_mod_right, Nat.mod_eq_of_lt hi]
  have moved := getLsbD_rotl_add_mod (rotl v n) hm (Nat.mod_lt (i + n) (by omega))
  rw [position, getLsbD_rotl_add_mod v hn hi] at moved
  exact moved

theorem rotl_mod (w n : Nat) (v : BitVec w) : rotl v n = rotl v (n % w) := by
  rw [rotl, rotl, Nat.mod_mod]

/-- Settles O46: the slices are those of `rotl_eq_slices`, and 61 + 19 and 61 + 67 are the two widths. -/
theorem rotationBySlices : Obligations.RotationBySlices := by
  refine ⟨fun v => ⟨?_, ?_⟩, fun v => ⟨?_, ?_⟩, rotl_mod, fun _ _ _ v hn hi => getLsbD_rotl_add_mod v hn hi⟩
  · exact rotl_eq_slices (m := 19) (n := 61) (by decide) v
  · exact rotl_rotl_of_add_eq (by decide) (by decide) (by decide) v
  · exact rotl_eq_slices (m := 67) (n := 61) (by decide) v
  · exact rotl_rotl_of_add_eq (by decide) (by decide) (by decide) v

/-! ## Registers that agree from a bit upwards -/

/-- The two values have the same bits from bit `n` upwards. -/
def AgreeFrom {w : Nat} (n : Nat) (t t' : BitVec w) : Prop :=
  ∀ i, n ≤ i → t.getLsbD i = t'.getLsbD i

theorem agreeFrom_zero_iff {w : Nat} {t t' : BitVec w} : AgreeFrom 0 t t' ↔ t = t' := by
  refine ⟨fun agree => BitVec.eq_of_getLsbD_eq fun i _ => agree i (Nat.zero_le i), ?_⟩
  rintro rfl i -
  rfl

theorem agreeFrom_xor_iff {w n : Nat} {t t' d : BitVec w} : AgreeFrom n (t ^^^ d) (t' ^^^ d) ↔ AgreeFrom n t t' := by
  simp only [AgreeFrom, BitVec.getLsbD_xor, Bool.xor_left_inj]

/-- Agreement from a bit of the lower part is equality of the upper part and agreement of the lower. -/
theorem agreeFrom_append_iff {m w n : Nat} (hn : n ≤ w) {a a' : BitVec m} {b b' : BitVec w} :
    AgreeFrom n (a ++ b) (a' ++ b') ↔ a = a' ∧ AgreeFrom n b b' := by
  constructor
  · intro agree
    refine ⟨BitVec.eq_of_getLsbD_eq fun i _ => ?_, fun i hi => ?_⟩
    · have bit := agree (w + i) (by omega)
      simpa [BitVec.getLsbD_append] using bit
    · by_cases low : i < w
      · have bit := agree i hi
        simpa [BitVec.getLsbD_append, low] using bit
      · rw [BitVec.getLsbD_of_ge b i (by omega), BitVec.getLsbD_of_ge b' i (by omega)]
  · rintro ⟨rfl, agree⟩ i hi
    rw [BitVec.getLsbD_append, BitVec.getLsbD_append, agree i hi]

theorem append_eq_append_iff {m w : Nat} {a a' : BitVec m} {b b' : BitVec w} : a ++ b = a' ++ b' ↔ a = a' ∧ b = b' := by
  rw [← agreeFrom_zero_iff, agreeFrom_append_iff (Nat.zero_le w), agreeFrom_zero_iff]

theorem agreeFrom_of_extractLsb'_eq {n m : Nat} {t t' : BitVec (n + m)} (same : t.extractLsb' n m = t'.extractLsb' n m) :
    AgreeFrom n t t' := by
  intro i hi
  obtain ⟨j, rfl⟩ := Nat.exists_eq_add_of_le hi
  by_cases inside : j < m
  · have bit := congrArg (fun slice : BitVec m => slice.getLsbD j) same
    simpa [inside] using bit
  · rw [BitVec.getLsbD_of_ge t _ (by omega), BitVec.getLsbD_of_ge t' _ (by omega)]

/-- Registers whose rotations agree have the same bits where these came from. -/
theorem getLsbD_eq_of_agreeFrom_rotl {w k n i : Nat} {v v' : BitVec w} (agree : AgreeFrom n (rotl v k) (rotl v' k))
    (moved : n ≤ i + k) (inside : i + k < w) : v.getLsbD i = v'.getLsbD i := by
  have bit := agree (i + k) moved
  have notWrapped : ¬ i + k < k := by omega
  rwa [getLsbD_rotl v (by omega) inside, getLsbD_rotl v' (by omega) inside, if_neg notWrapped, if_neg notWrapped,
    Nat.add_sub_cancel] at bit

/-! ## The updates of such registers -/

/-- The S-box step substitutes the nibble above bit 76 whole and one to one. -/
theorem agreeFrom_sboxTop80_iff {n : Nat} (hn : n ≤ 76) {t t' : BitVec 80} :
    AgreeFrom n (sboxTop80 t) (sboxTop80 t') ↔ AgreeFrom n t t' := by
  have slices (u : BitVec 80) : u.extractLsb' 76 4 ++ u.extractLsb' 0 76 = u :=
    (BitVec.extractLsb'_append_extractLsb'_eq_extractLsb' (by decide)).trans BitVec.extractLsb'_eq_self
  have substituted := agreeFrom_append_iff hn (a := sbox (t.extractLsb' 76 4)) (a' := sbox (t'.extractLsb' 76 4))
    (b := t.extractLsb' 0 76) (b' := t'.extractLsb' 0 76)
  rw [sbox_injective.eq_iff, ← agreeFrom_append_iff hn, slices, slices] at substituted
  exact substituted

/-- The same for the two nibbles above bit 120. -/
theorem agreeFrom_sboxTop128_iff {n : Nat} (hn : n ≤ 120) {t t' : BitVec 128} :
    AgreeFrom n (sboxTop128 t) (sboxTop128 t') ↔ AgreeFrom n t t' := by
  have slices (u : BitVec 128) : u.extractLsb' 124 4 ++ u.extractLsb' 120 4 ++ u.extractLsb' 0 120 = u := by
    rw [BitVec.extractLsb'_append_extractLsb'_eq_extractLsb' (by decide)]
    exact (BitVec.extractLsb'_append_extractLsb'_eq_extractLsb' (by decide)).trans BitVec.extractLsb'_eq_self
  have substituted := agreeFrom_append_iff hn (a := sbox (t.extractLsb' 124 4) ++ sbox (t.extractLsb' 120 4))
    (a' := sbox (t'.extractLsb' 124 4) ++ sbox (t'.extractLsb' 120 4)) (b := t.extractLsb' 0 120) (b' := t'.extractLsb' 0 120)
  rw [append_eq_append_iff, sbox_injective.eq_iff, sbox_injective.eq_iff, ← append_eq_append_iff, ← agreeFrom_append_iff hn,
    slices, slices] at substituted
  exact substituted

theorem agreeFrom_ksUpdate80_iff {n : Nat} (hn : n ≤ 76) {kr kr' : BitVec 80} {c : Counter} :
    AgreeFrom n (ksUpdate80 kr c) (ksUpdate80 kr' c) ↔ AgreeFrom n (rotl kr 61) (rotl kr' 61) := by
  rw [ksUpdate80_eq, ksUpdate80_eq, agreeFrom_xor_iff, agreeFrom_sboxTop80_iff hn]

theorem agreeFrom_ksUpdate128_iff {n : Nat} (hn : n ≤ 120) {kr kr' : BitVec 128} {c : Counter} :
    AgreeFrom n (ksUpdate128 kr c) (ksUpdate128 kr' c) ↔ AgreeFrom n (rotl kr 61) (rotl kr' 61) := by
  rw [ksUpdate128_eq, ksUpdate128_eq, agreeFrom_xor_iff, agreeFrom_sboxTop128_iff hn]

/-! ## The 128-bit update -/

theorem ksUpdate128_injective (c : Counter) : Function.Injective fun kr => ksUpdate128 kr c := by
  intro kr kr' same
  have rotated := (agreeFrom_ksUpdate128_iff (Nat.zero_le 120)).mp (agreeFrom_zero_iff.mpr same)
  exact rotl_injective (by decide) (agreeFrom_zero_iff.mp rotated)

/-- Settles O48: the rotation as slices; the counter changes no bit outside its place, and no step loses a bit. -/
theorem keyUpdateOf128Bits : Obligations.KeyUpdateOf128Bits := by
  refine ⟨fun kr c => ?_, fun c => (ksUpdate128_injective c).bijective_of_finite, by decide⟩
  intro t1 t2
  have update : ksUpdate128 kr c = t2 ^^^ (c.setWidth 128 <<< 62) := by
    rw [ksUpdate128_eq, rotl_eq_slices (m := 67) (n := 61) (by decide) kr, sboxTop128]
  refine ⟨update, ?_, fun i outside => ?_⟩
  · rw [update, BitVec.extractLsb'_xor, extractLsb'_counter c (by decide)]
  · rw [update, BitVec.getLsbD_xor, getLsbD_counter_outside c outside, Bool.xor_false]

/-! ## The key from its schedule -/

/-- Round key `i` is the register of index `i` from bit 16 upwards. -/
theorem agreeFrom_keyRegister80 {k k' : Key80} (same : generate80 k = generate80 k') {i : Nat} (hi : i < 33) :
    AgreeFrom 16 (keyRegister80 k i) (keyRegister80 k' i) := by
  have sameRoundKey : rkExtract80 (keyRegister80 k i) = rkExtract80 (keyRegister80 k' i) := by
    rw [← getElem_generate80 k i hi, ← getElem_generate80 k' i hi, same]
  exact agreeFrom_of_extractLsb'_eq (m := 64) sameRoundKey

/-- Round key `i` is the register of index `i` from bit 64 upwards. -/
theorem agreeFrom_keyRegister128 {k k' : Key128} (same : generate128 k = generate128 k') {i : Nat} (hi : i < 33) :
    AgreeFrom 64 (keyRegister128 k i) (keyRegister128 k' i) := by
  have sameRoundKey : rkExtract128 (keyRegister128 k i) = rkExtract128 (keyRegister128 k' i) := by
    rw [← getElem_generate128 k i hi, ← getElem_generate128 k' i hi, same]
  exact agreeFrom_of_extractLsb'_eq (m := 64) sameRoundKey

/-- Round key 0 holds the key above bit 16; round key 1 holds, rotated and substituted, bits 18..0. -/
theorem generate80_injective : Function.Injective generate80 := by
  intro k k' same
  have high : AgreeFrom 16 k k' := agreeFrom_keyRegister80 same (i := 0) (by decide)
  have rotated := (agreeFrom_ksUpdate80_iff (by decide)).mp (agreeFrom_keyRegister80 same (i := 1) (by decide))
  rw [← agreeFrom_zero_iff]
  intro i _
  by_cases low : i < 16
  · exact getLsbD_eq_of_agreeFrom_rotl rotated (by omega) (by omega)
  · exact high i (by omega)

/-- Round key 0 holds the key above bit 64. Round keys 1 and 2 give the register after one update down to bit 3, and its bits
127..61 hold, rotated and substituted, bits 66..0 of the key. -/
theorem generate128_injective : Function.Injective generate128 := by
  intro k k' same
  have high : AgreeFrom 64 k k' := agreeFrom_keyRegister128 same (i := 0) (by decide)
  have updated : AgreeFrom 3 (ksUpdate128 k (ctr 0)) (ksUpdate128 k' (ctr 0)) := by
    have upper := agreeFrom_keyRegister128 same (i := 1) (by decide)
    have rotated := (agreeFrom_ksUpdate128_iff (by decide)).mp (agreeFrom_keyRegister128 same (i := 2) (by decide))
    intro i hi
    by_cases low : i < 64
    · exact getLsbD_eq_of_agreeFrom_rotl rotated (by omega) (by omega)
    · exact upper i (by omega)
  have rotated := (agreeFrom_ksUpdate128_iff (by decide)).mp updated
  rw [← agreeFrom_zero_iff]
  intro i _
  by_cases low : i < 64
  · exact getLsbD_eq_of_agreeFrom_rotl rotated (by omega) (by omega)
  · exact high i (by omega)

/-- Settles O52: both generators are injective. -/
theorem scheduleDeterminesKey : Obligations.ScheduleDeterminesKey :=
  ⟨fun _ _ same => generate80_injective same, fun _ _ same => generate128_injective same⟩

end Sys2Proof.Machine
end

section
/-! The round trip of the commands, the known answers, and the per-round form of the driver and of the generators (10_state rule
R21, 40_key_schedule rules R68 and R71, 42_block_driver rules R91 to R97). -/

namespace Sys2Proof.Machine

/-! ## The round trip -/

theorem encrypt_bijective (sched : Schedule) : Function.Bijective fun p => encrypt p sched :=
  Function.bijective_iff_has_inverse.mpr
    ⟨fun c => decrypt c sched, fun p => decrypt_encrypt p sched, fun c => encrypt_decrypt c sched⟩

/-- Settles O55: the two functions undo each other, and the commands answer them under one engine, which neither changes. -/
theorem decryptUndoesEncrypt : Obligations.DecryptUndoesEncrypt := by
  refine ⟨fun x sched => ⟨decrypt_encrypt x sched, encrypt_decrypt x sched⟩, encrypt_bijective, fun x s valid => ?_⟩
  obtain ⟨e, loaded⟩ := Option.isSome_iff_exists.mp valid
  constructor
  · refine ⟨_, _, encrypt x e.rk, exec_enc_some loaded x, State.complete_response _ _,
      exec_dec_some ((State.complete_engine _ _).trans loaded) _, ?_⟩
    rw [State.complete_response, decrypt_encrypt]
  · refine ⟨_, _, decrypt x e.rk, exec_dec_some loaded x, State.complete_response _ _,
      exec_enc_some ((State.complete_engine _ _).trans loaded) _, ?_⟩
    rw [State.complete_response, encrypt_decrypt]

/-- Settles O56: the vector of V1, undone by `decrypt`, and V5 evaluated. -/
theorem knownAnswerVector : Obligations.KnownAnswerVector :=
  ⟨encrypt_zero_generate80_zero, (decrypt_eq_iff _ _ _).mpr encrypt_zero_generate80_zero, by decide +kernel⟩

/-! ## The ticks of a block command -/

theorem runTicks_succ (tick : Working → Option BlockTick) (n : Nat) (w : Working) :
    runTicks tick (n + 1) w =
      match tick w with
      | some (.running w') => runTicks tick n w'
      | some (.finished out) => some out
      | none => none := rfl

/-- Ticks that run through the first `n` of a sequence of working registers. -/
theorem runTicks_add {tick : Working → Option BlockTick} {w : Nat → Working} {n : Nat}
    (running : ∀ j < n, tick (w j) = some (.running (w (j + 1)))) (m : Nat) :
    runTicks tick (n + m) (w 0) = runTicks tick m (w n) := by
  induction n generalizing m with
  | zero => rw [Nat.zero_add]
  | succ n ih =>
    have earlier : ∀ j < n, tick (w j) = some (.running (w (j + 1))) := fun j hj => running j (by omega)
    rw [Nat.add_assoc, Nat.add_comm 1 m, ih earlier, runTicks_succ, running n (by omega)]

/-- If they finish at the next one, that is the number of ticks it takes, and no fewer do. -/
theorem runTicks_of_finished {tick : Working → Option BlockTick} {w : Nat → Working} {n : Nat} {out : Block}
    (running : ∀ j < n, tick (w j) = some (.running (w (j + 1)))) (finished : tick (w n) = some (.finished out)) :
    runTicks tick (n + 1) (w 0) = some out ∧ runTicks tick n (w 0) = none := by
  constructor
  · rw [runTicks_add running, runTicks_succ, finished]
  · exact runTicks_add running 0

/-- The working registers of a block command with cipher state `st` at index `ri`. -/
def blockWorking (st : Block) (ri : Nat) : Working := { Working.none with st := some st, ri := some (BitVec.ofNat 6 ri) }

theorem encTick_round (sched : Schedule) (st : Block) {r : Nat} (hr : r < 31) :
    encTick sched (blockWorking st r) =
      some (.running (blockWorking (applyRound st (sched[r]'(Nat.lt_trans hr (by decide)))) (r + 1))) := by
  have index : (BitVec.ofNat 6 r).toNat = r := toNat_bitPos_ofNat (by omega)
  have tick : encTick sched (blockWorking st r) = _ := dif_pos (index.trans_lt hr)
  rw [tick]
  simp [index, blockWorking, BitVec.ofNat_add]

theorem encTick_whitening (sched : Schedule) (st : Block) :
    encTick sched (blockWorking st 31) = some (.finished (addRoundKey st sched[31])) := rfl

theorem decTick_whitening (sched : Schedule) (st : Block) :
    decTick sched (blockWorking st 31) = some (.running (blockWorking (addRoundKey st sched[31]) 30)) := rfl

theorem decTick_round (sched : Schedule) (st : Block) {r : Nat} (hr : r + 1 < 31) :
    decTick sched (blockWorking st (r + 1)) =
      some (.running (blockWorking (invRound st (sched[r + 1]'(Nat.lt_trans hr (by decide)))) r)) := by
  have index : (BitVec.ofNat 6 (r + 1)).toNat = r + 1 := toNat_bitPos_ofNat (by omega)
  have notLast : BitVec.ofNat 6 (r + 1) ≠ 0#6 := by
    rw [ne_eq, ← BitVec.toNat_inj, index]
    exact Nat.succ_ne_zero r
  have next : BitVec.ofNat 6 (r + 1) - 1#6 = BitVec.ofNat 6 r := by
    rw [BitVec.ofNat_add]
    exact BitVec.add_sub_cancel _ _
  have tick : decTick sched (blockWorking st (r + 1)) = _ := (dif_pos (index.trans_lt hr)).trans (if_neg notLast)
  rw [tick]
  simp [index, blockWorking, next]

theorem decTick_last (sched : Schedule) (st : Block) :
    decTick sched (blockWorking st 0) = some (.finished (invRound st sched[0])) := rfl

/-- The working registers after `j` ticks of the encryption of `p`. -/
def encryptionWorking (sched : Schedule) (p : Block) (j : Nat) : Working := blockWorking (encryptionState sched p j) j

theorem encrypt_ticks (sched : Schedule) (p : Block) :
    runTicks (encTick sched) 32 (Working.startEnc p) = some (encrypt p sched) ∧
      runTicks (encTick sched) 31 (Working.startEnc p) = none := by
  apply runTicks_of_finished (w := encryptionWorking sched p) (n := 31)
  · intro j hj
    rw [encryptionWorking, encTick_round sched _ hj, ← encryptionState_succ sched p hj, encryptionWorking]
  · rw [encryptionWorking, encTick_whitening, encrypt_eq_encryptionState, addRoundKey_eq_xor]

/-- The working registers of the decryption of `c` once the rounds above `r` are undone. -/
def decryptionWorking (sched : Schedule) (c : Block) (r : Nat) : Working := blockWorking (decryptionState sched c (r + 1)) r

theorem decTick_startDec (sched : Schedule) (c : Block) :
    decTick sched (Working.startDec c) = some (.running (decryptionWorking sched c 30)) := by
  rw [decryptionWorking, decryptionState_31, ← addRoundKey_eq_xor]
  exact decTick_whitening sched c

theorem decTick_decryptionWorking (sched : Schedule) (c : Block) {r : Nat} (hr : r + 1 < 31) :
    decTick sched (decryptionWorking sched c (r + 1)) = some (.running (decryptionWorking sched c r)) := by
  rw [decryptionWorking, decTick_round sched _ hr, ← decryptionState_eq_invRound sched c hr, decryptionWorking]

theorem decrypt_ticks (sched : Schedule) (c : Block) :
    runTicks (decTick sched) 32 (Working.startDec c) = some (decrypt c sched) ∧
      runTicks (decTick sched) 31 (Working.startDec c) = none := by
  rw [runTicks_succ _ 31, runTicks_succ _ 30, decTick_startDec]
  apply runTicks_of_finished (w := fun j => decryptionWorking sched c (30 - j)) (n := 30)
  · intro j hj
    have current : 30 - j = 30 - (j + 1) + 1 := by omega
    rw [current, decTick_decryptionWorking sched c (by omega)]
  · rw [Nat.sub_self, decryptionWorking, decTick_last, decrypt_eq_decryptionState,
      ← decryptionState_eq_invRound sched c (by decide : 0 < 31)]

/-- Settles O57: `encrypt_ticks` and `decrypt_ticks`. -/
theorem perRoundEngineMatchesDriver : Obligations.PerRoundEngineMatchesDriver := by
  intro x sched
  obtain ⟨encrypted, encNotBefore⟩ := encrypt_ticks sched x
  obtain ⟨decrypted, decNotBefore⟩ := decrypt_ticks sched x
  exact ⟨encrypted, encNotBefore, decrypted, decNotBefore⟩

/-! ## The ticks of a generator -/

theorem runKeyTicks_succ (tick : Working → Option (RoundKey × Option Working)) (n : Nat) (w : Working) :
    runKeyTicks tick (n + 1) w =
      match tick w with
      | some (k, some w') => (runKeyTicks tick n w').map (k :: ·)
      | some (k, none) => some [k]
      | none => none := rfl

/-- Ticks that emit the first `n` of a sequence of round keys, going through a sequence of working registers. -/
theorem runKeyTicks_add {tick : Working → Option (RoundKey × Option Working)} {w : Nat → Working} {key : Nat → RoundKey}
    {n : Nat} (running : ∀ j < n, tick (w j) = some (key j, some (w (j + 1)))) (m : Nat) :
    runKeyTicks tick (n + m) (w 0) = (runKeyTicks tick m (w n)).map ((List.range n).map key ++ ·) := by
  induction n generalizing m with
  | zero => simp
  | succ n ih =>
    have earlier : ∀ j < n, tick (w j) = some (key j, some (w (j + 1))) := fun j hj => running j (by omega)
    rw [Nat.add_assoc, Nat.add_comm 1 m, ih earlier, runKeyTicks_succ, running n (by omega)]
    simp [List.range_succ, Function.comp_def]

/-- If the next one is the last, that is the number of ticks it takes, and no fewer do. -/
theorem runKeyTicks_of_last {tick : Working → Option (RoundKey × Option Working)} {w : Nat → Working} {key : Nat → RoundKey}
    {n : Nat} (running : ∀ j < n, tick (w j) = some (key j, some (w (j + 1)))) (last : tick (w n) = some (key n, none)) :
    runKeyTicks tick (n + 1) (w 0) = some ((List.range (n + 1)).map key) ∧ runKeyTicks tick n (w 0) = none := by
  constructor
  · rw [runKeyTicks_add running, runKeyTicks_succ, last, Option.map_some, List.range_succ, List.map_append, List.map_singleton]
  · exact runKeyTicks_add running 0

/-- The working registers of a generator with key register `kr` at index `ri`. -/
def keyWorking (kr : BitVec 128) (ri : Nat) : Working := { Working.none with kr := some kr, ri := some (BitVec.ofNat 6 ri) }

theorem keyTick80_running (kr : BitVec 80) {i : Nat} (hi : i < 32) :
    keyTick80 (keyWorking (kr.setWidth 128) i) =
      some (rkExtract80 kr, some (keyWorking ((ksUpdate80 kr (ctr i)).setWidth 128) (i + 1))) := by
  have index : (BitVec.ofNat 6 i).toNat = i := toNat_bitPos_ofNat (by omega)
  simp [keyTick80, keyWorking, index, hi, BitVec.ofNat_add]

theorem keyTick80_last (kr : BitVec 80) : keyTick80 (keyWorking (kr.setWidth 128) 32) = some (rkExtract80 kr, none) := by
  simp [keyTick80, keyWorking]

theorem keyTick128_running (kr : BitVec 128) {i : Nat} (hi : i < 32) :
    keyTick128 (keyWorking kr i) = some (rkExtract128 kr, some (keyWorking (ksUpdate128 kr (ctr i)) (i + 1))) := by
  have index : (BitVec.ofNat 6 i).toNat = i := toNat_bitPos_ofNat (by omega)
  simp [keyTick128, keyWorking, index, hi, BitVec.ofNat_add]

theorem keyTick128_last (kr : BitVec 128) : keyTick128 (keyWorking kr 32) = some (rkExtract128 kr, none) := rfl

theorem toList_generate80 (key : Key80) :
    (generate80 key).toList = (List.range 33).map fun i => rkExtract80 (keyRegister80 key i) := by
  apply List.ext_getElem <;> simp

theorem toList_generate128 (key : Key128) :
    (generate128 key).toList = (List.range 33).map fun i => rkExtract128 (keyRegister128 key i) := by
  apply List.ext_getElem <;> simp

theorem setWidth_80_eq_keyIn80 (k : Key128) : k.setWidth 80 = keyIn80 k := by
  apply BitVec.eq_of_getLsbD_eq
  intro i _
  rw [BitVec.getLsbD_setWidth, getLsbD_keyIn80]

/-- The generator starts with `KEY_IN` whole, and its first tick reads the 80-bit key in it. -/
theorem keyTick80_startKeygen (k : Key128) :
    keyTick80 (Working.startKeygen k) = keyTick80 (keyWorking ((keyIn80 k).setWidth 128) 0) := by
  simp [keyTick80, Working.startKeygen, keyWorking, setWidth_80_eq_keyIn80]

theorem generate80_ticks (k : Key128) :
    runKeyTicks keyTick80 33 (Working.startKeygen k) = some (generate80 (keyIn80 k)).toList ∧
      runKeyTicks keyTick80 32 (Working.startKeygen k) = none := by
  have fromPort (m : Nat) : runKeyTicks keyTick80 (m + 1) (Working.startKeygen k) =
      runKeyTicks keyTick80 (m + 1) (keyWorking ((keyIn80 k).setWidth 128) 0) := by
    rw [runKeyTicks_succ, runKeyTicks_succ, keyTick80_startKeygen]
  rw [fromPort 32, fromPort 31, toList_generate80]
  exact runKeyTicks_of_last (w := fun i => keyWorking ((keyRegister80 (keyIn80 k) i).setWidth 128) i)
    (fun i hi => keyTick80_running _ hi) (keyTick80_last _)

theorem generate128_ticks (k : Key128) :
    runKeyTicks keyTick128 33 (Working.startKeygen k) = some (generate128 k).toList ∧
      runKeyTicks keyTick128 32 (Working.startKeygen k) = none := by
  rw [toList_generate128]
  exact runKeyTicks_of_last (w := fun i => keyWorking (keyRegister128 k i) i)
    (fun i hi => keyTick128_running _ hi) (keyTick128_last _)

/-- Settles O58: `generate80_ticks` and `generate128_ticks`. -/
theorem perRoundGeneratorMatchesSchedule : Obligations.PerRoundGeneratorMatchesSchedule :=
  ⟨fun k => (generate80_ticks k).1, fun k => (generate128_ticks k).1,
    fun k => ⟨(generate80_ticks k).2, (generate128_ticks k).2⟩⟩

end Sys2Proof.Machine
end
